-- ==== Sys2Proof/Word.lean ====
section
/-! DEFINITION. The word types of the CORE (spec/00_scope.md R7, R9; spec/10_state.md R20, R22). All values are unsigned. -/

namespace Sys2Proof

/-- An 8-bit value: a general register, a timer, a memory byte, an immediate nn (R20, R28, R30, R92). -/
abbrev Byte := BitVec 8

/-- A 16-bit value: I, PC, a stack entry, an instruction word (R22, R23, R26, R90). -/
abbrev Word := BitVec 16

/-- A general register's number, 0x0..0xF (R20); VF is 15 (R21). -/
abbrev Reg := Fin 16

/-- A 4-bit instruction field: the row count n, or a low nibble that decodes to nothing (R92, R95). -/
abbrev Nibble := BitVec 4

/-- The 12-bit immediate byte address nnn (R92). -/
abbrev Addr12 := BitVec 12

end Sys2Proof
end

