-- ==== Sys2Proof/Syntax.lean ====
section
/-! DEFINITION. The 34 instructions, one constructor per row of spec/opcode_table.json (spec/30_encoding.md R97). -/

namespace Sys2Proof

/-- An instruction with its operand fields (R91, R92). The low nibble that groups 5 and 9 ignore (R95) and the y that the shifts
ignore (R169, R171) are kept, so that an instruction determines its word (log entry 14). -/
inductive Instr where
  /-- 00E0 CLS (R120) -/
  | cls
  /-- 00EE RET (R140) -/
  | ret
  /-- 1nnn JP nnn (R141) -/
  | jp (nnn : Addr12)
  /-- 2nnn CALL nnn (R142) -/
  | call (nnn : Addr12)
  /-- 3xnn SE Vx,nn (R143) -/
  | seImm (x : Reg) (nn : Byte)
  /-- 4xnn SNE Vx,nn (R144) -/
  | sneImm (x : Reg) (nn : Byte)
  /-- 5xy0 SE Vx,Vy; the low nibble is ignored (R145) -/
  | seReg (x y : Reg) (low : Nibble)
  /-- 6xnn LD Vx,nn (R160) -/
  | ldImm (x : Reg) (nn : Byte)
  /-- 7xnn ADD Vx,nn (R161) -/
  | addImm (x : Reg) (nn : Byte)
  /-- 8xy0 LD Vx,Vy (R162) -/
  | ldReg (x y : Reg)
  /-- 8xy1 OR Vx,Vy (R163) -/
  | orReg (x y : Reg)
  /-- 8xy2 AND Vx,Vy (R164) -/
  | andReg (x y : Reg)
  /-- 8xy3 XOR Vx,Vy (R165) -/
  | xorReg (x y : Reg)
  /-- 8xy4 ADD Vx,Vy (R167) -/
  | addReg (x y : Reg)
  /-- 8xy5 SUB Vx,Vy (R168) -/
  | subReg (x y : Reg)
  /-- 8xy6 SHR Vx; y is ignored (R169) -/
  | shr (x y : Reg)
  /-- 8xy7 SUBN Vx,Vy (R170) -/
  | subnReg (x y : Reg)
  /-- 8xyE SHL Vx; y is ignored (R171) -/
  | shl (x y : Reg)
  /-- 9xy0 SNE Vx,Vy; the low nibble is ignored (R146) -/
  | sneReg (x y : Reg) (low : Nibble)
  /-- Annn LD I,nnn (R190) -/
  | ldI (nnn : Addr12)
  /-- Bnnn JP V0,nnn (R147) -/
  | jpV0 (nnn : Addr12)
  /-- Cxnn RND Vx,nn (R172) -/
  | rnd (x : Reg) (nn : Byte)
  /-- Dxyn DRW Vx,Vy,n (R121) -/
  | drw (x y : Reg) (n : Nibble)
  /-- Ex9E SKP Vx (R210) -/
  | skp (x : Reg)
  /-- ExA1 SKNP Vx (R211) -/
  | sknp (x : Reg)
  /-- Fx07 LD Vx,DT (R213) -/
  | ldVxDt (x : Reg)
  /-- Fx0A LD Vx,K (R212) -/
  | ldVxK (x : Reg)
  /-- Fx15 LD DT,Vx (R214) -/
  | ldDtVx (x : Reg)
  /-- Fx18 LD ST,Vx (R215) -/
  | ldStVx (x : Reg)
  /-- Fx1E ADD I,Vx (R191) -/
  | addI (x : Reg)
  /-- Fx29 LD F,Vx (R192) -/
  | ldF (x : Reg)
  /-- Fx33 LD B,Vx (R193) -/
  | ldB (x : Reg)
  /-- Fx55 LD [I],Vx (R194) -/
  | storeRegs (x : Reg)
  /-- Fx65 LD Vx,[I] (R195) -/
  | loadRegs (x : Reg)
  deriving DecidableEq, Repr

end Sys2Proof
end

