-- ==== Sys2Proof/WellFormed.lean ====
section
/-! DEFINITION. Well-formedness of instructions. Every operand field has exactly the width of its field of the word (spec/30_encoding.md R91, R92), so an operand that does not fit cannot be written down, and every term is well formed; the one check left is that of the canonical words an assembler emits (R95, R100). -/

namespace Sys2Proof

/-- Does the instruction have a word? By the types of the fields each one has: the hardware restricts no operand value (R93: in the
single-level groups 'every value of the remaining 12 bits is an operand or is ignored'). -/
def Instr.wellFormed : Instr → Bool
  | .cls | .ret => true
  | .jp _ | .call _ | .ldI _ | .jpV0 _ => true
  | .seImm _ _ | .sneImm _ _ | .ldImm _ _ | .addImm _ _ | .rnd _ _ => true
  | .ldReg _ _ | .orReg _ _ | .andReg _ _ | .xorReg _ _ | .addReg _ _ => true
  | .subReg _ _ | .shr _ _ | .subnReg _ _ | .shl _ _ => true
  | .seReg _ _ _ | .sneReg _ _ _ | .drw _ _ _ => true
  | .skp _ | .sknp _ | .ldVxDt _ | .ldVxK _ | .ldDtVx _ | .ldStVx _ => true
  | .addI _ | .ldF _ | .ldB _ | .storeRegs _ | .loadRegs _ => true

/-- Is the instruction's word one an assembler emits? In groups 5 and 9 that word has low nibble 0 (R95); a shift whose second register
is left out gets y = 0 or y = x, but any y may be written (R100). A word that is not canonical executes all the same. -/
def Instr.canonical : Instr → Bool
  | .seReg _ _ low => low == 0#4
  | .sneReg _ _ low => low == 0#4
  | .cls | .ret => true
  | .jp _ | .call _ | .ldI _ | .jpV0 _ => true
  | .seImm _ _ | .sneImm _ _ | .ldImm _ _ | .addImm _ _ | .rnd _ _ => true
  | .ldReg _ _ | .orReg _ _ | .andReg _ _ | .xorReg _ _ | .addReg _ _ => true
  | .subReg _ _ | .shr _ _ | .subnReg _ _ | .shl _ _ => true
  | .drw _ _ _ => true
  | .skp _ | .sknp _ | .ldVxDt _ | .ldVxK _ | .ldDtVx _ | .ldStVx _ => true
  | .addI _ | .ldF _ | .ldB _ | .storeRegs _ | .loadRegs _ => true

end Sys2Proof
end

