-- ==== Sys2Proof/Decode.lean ====
section
/-! DEFINITION. The two-level decoder, the encoder and the opcode table (spec/30_encoding.md R90 to R98). -/

namespace Sys2Proof

/-- v[hi:lo] of R7: the unsigned value of bits hi down to lo. -/
def bits (w : Word) (hi lo : Nat) : Nat := w.toNat / 2 ^ lo % 2 ^ (hi + 1 - lo)

/-- op = w[15:12] (R9). -/
def opField (w : Word) : Nat := bits w 15 12

/-- x = w[11:8] as a register number (R9). -/
def xField (w : Word) : Reg := Fin.ofNat 16 (bits w 11 8)

/-- y = w[7:4] as a register number (R9). -/
def yField (w : Word) : Reg := Fin.ofNat 16 (bits w 7 4)

/-- n = w[3:0] (R9). -/
def nField (w : Word) : Nibble := BitVec.ofNat 4 (bits w 3 0)

/-- nn = w[7:0] (R9). -/
def nnField (w : Word) : Byte := BitVec.ofNat 8 (bits w 7 0)

/-- nnn = w[11:0] (R9). -/
def nnnField (w : Word) : Addr12 := BitVec.ofNat 12 (bits w 11 0)

/-- Group 0x0 selects on the whole remaining 12 bits (R94). -/
def decodeGroup0 (w : Word) : Option Instr :=
  match bits w 11 0 with
  | 0x0E0 => some .cls
  | 0x0EE => some .ret
  | _ => none

/-- Group 0x8 selects on n (R96). -/
def decodeGroup8 (w : Word) : Option Instr :=
  match bits w 3 0 with
  | 0x0 => some (.ldReg (xField w) (yField w))
  | 0x1 => some (.orReg (xField w) (yField w))
  | 0x2 => some (.andReg (xField w) (yField w))
  | 0x3 => some (.xorReg (xField w) (yField w))
  | 0x4 => some (.addReg (xField w) (yField w))
  | 0x5 => some (.subReg (xField w) (yField w))
  | 0x6 => some (.shr (xField w) (yField w))
  | 0x7 => some (.subnReg (xField w) (yField w))
  | 0xE => some (.shl (xField w) (yField w))
  | _ => none

/-- Group 0xE selects on the whole byte nn (R96). -/
def decodeGroupE (w : Word) : Option Instr :=
  match bits w 7 0 with
  | 0x9E => some (.skp (xField w))
  | 0xA1 => some (.sknp (xField w))
  | _ => none

/-- Group 0xF selects on the whole byte nn (R96). -/
def decodeGroupF (w : Word) : Option Instr :=
  match bits w 7 0 with
  | 0x07 => some (.ldVxDt (xField w))
  | 0x0A => some (.ldVxK (xField w))
  | 0x15 => some (.ldDtVx (xField w))
  | 0x18 => some (.ldStVx (xField w))
  | 0x1E => some (.addI (xField w))
  | 0x29 => some (.ldF (xField w))
  | 0x33 => some (.ldB (xField w))
  | 0x55 => some (.storeRegs (xField w))
  | 0x65 => some (.loadRegs (xField w))
  | _ => none

/-- The dispatcher: level one on op, level two in groups 0x0, 0x8, 0xE and 0xF only (R93, R95). `none` is an unsupported word
(R98). -/
def decodeWord (w : Word) : Option Instr :=
  match opField w with
  | 0x0 => decodeGroup0 w
  | 0x1 => some (.jp (nnnField w))
  | 0x2 => some (.call (nnnField w))
  | 0x3 => some (.seImm (xField w) (nnField w))
  | 0x4 => some (.sneImm (xField w) (nnField w))
  | 0x5 => some (.seReg (xField w) (yField w) (nField w))
  | 0x6 => some (.ldImm (xField w) (nnField w))
  | 0x7 => some (.addImm (xField w) (nnField w))
  | 0x8 => decodeGroup8 w
  | 0x9 => some (.sneReg (xField w) (yField w) (nField w))
  | 0xA => some (.ldI (nnnField w))
  | 0xB => some (.jpV0 (nnnField w))
  | 0xC => some (.rnd (xField w) (nnField w))
  | 0xD => some (.drw (xField w) (yField w) (nField w))
  | 0xE => decodeGroupE w
  | 0xF => decodeGroupF w
  | _ => none

/-- hi || lo: the byte at the lower address is the more significant (R60). -/
def combineBytes (hi lo : Byte) : Word := BitVec.ofNat 16 (hi.toNat * 256 + lo.toNat)

/-- The more significant byte of a word, the one at the lower address (R60). -/
def highByte (w : Word) : Byte := BitVec.ofNat 8 (bits w 15 8)

/-- The less significant byte of a word (R60). -/
def lowByte (w : Word) : Byte := BitVec.ofNat 8 (bits w 7 0)

/-- Why bytes give no instruction. -/
inductive DecodeError where
  /-- The word matches no row of the opcode table: UnsupportedInstruction (R98, R236). Recoverable: the step passes over it. -/
  | unsupportedInstruction (w : Word)
  /-- Fewer than two bytes were given. The machine's fetch always gives two. -/
  | truncated
  deriving DecidableEq, Repr

/-- The decoder on bytes in memory order: the first instruction and the bytes after it. Total on any bytes. -/
def decodeBytes : List Byte → Except DecodeError (Instr × List Byte)
  | hi :: lo :: rest =>
    match decodeWord (combineBytes hi lo) with
    | some i => .ok (i, rest)
    | none => .error (.unsupportedInstruction (combineBytes hi lo))
  | _ => .error .truncated

/-- The host's question: what the decoder reads from an instruction whose bits, numbered as spec/opcode_table.json numbers them, are
the low nbits bits of w. Each table row is one 16-bit word, laid out with its more significant byte first (R60). -/
def decodeTableWord (nbits w : Nat) : Option Instr :=
  match decodeBytes [highByte (BitVec.ofNat 16 (w % 2 ^ nbits)), lowByte (BitVec.ofNat 16 (w % 2 ^ nbits))] with
  | .ok (i, _) => some i
  | .error _ => none

/-- Format NNN (R91). -/
def packNNN (op : Nat) (nnn : Addr12) : Word := BitVec.ofNat 16 (op * 0x1000 + nnn.toNat)

/-- Formats XNN and X (R91). -/
def packXNN (op : Nat) (x : Reg) (nn : Byte) : Word := BitVec.ofNat 16 (op * 0x1000 + x.val * 0x100 + nn.toNat)

/-- Formats XY and XYN (R91). -/
def packXYN (op : Nat) (x y : Reg) (n : Nibble) : Word := BitVec.ofNat 16 (op * 0x1000 + x.val * 0x100 + y.val * 0x10 + n.toNat)

/-- The word of an instruction (R97). -/
def encode : Instr → Word
  | .cls => 0x00E0#16
  | .ret => 0x00EE#16
  | .jp nnn => packNNN 0x1 nnn
  | .call nnn => packNNN 0x2 nnn
  | .seImm x nn => packXNN 0x3 x nn
  | .sneImm x nn => packXNN 0x4 x nn
  | .seReg x y low => packXYN 0x5 x y low
  | .ldImm x nn => packXNN 0x6 x nn
  | .addImm x nn => packXNN 0x7 x nn
  | .ldReg x y => packXYN 0x8 x y 0x0#4
  | .orReg x y => packXYN 0x8 x y 0x1#4
  | .andReg x y => packXYN 0x8 x y 0x2#4
  | .xorReg x y => packXYN 0x8 x y 0x3#4
  | .addReg x y => packXYN 0x8 x y 0x4#4
  | .subReg x y => packXYN 0x8 x y 0x5#4
  | .shr x y => packXYN 0x8 x y 0x6#4
  | .subnReg x y => packXYN 0x8 x y 0x7#4
  | .shl x y => packXYN 0x8 x y 0xE#4
  | .sneReg x y low => packXYN 0x9 x y low
  | .ldI nnn => packNNN 0xA nnn
  | .jpV0 nnn => packNNN 0xB nnn
  | .rnd x nn => packXNN 0xC x nn
  | .drw x y n => packXYN 0xD x y n
  | .skp x => packXNN 0xE x 0x9E#8
  | .sknp x => packXNN 0xE x 0xA1#8
  | .ldVxDt x => packXNN 0xF x 0x07#8
  | .ldVxK x => packXNN 0xF x 0x0A#8
  | .ldDtVx x => packXNN 0xF x 0x15#8
  | .ldStVx x => packXNN 0xF x 0x18#8
  | .addI x => packXNN 0xF x 0x1E#8
  | .ldF x => packXNN 0xF x 0x29#8
  | .ldB x => packXNN 0xF x 0x33#8
  | .storeRegs x => packXNN 0xF x 0x55#8
  | .loadRegs x => packXNN 0xF x 0x65#8

/-- One row of the opcode map: a word is the row's when (word AND mask) = pattern (R97). -/
structure OpcodeRow where
  mnemonic : String
  mask : Word
  pattern : Word
  deriving DecidableEq, Repr

/-- The opcode map of R97 for the one-level groups and group 0x0, in the order of its first columns. -/
def opcodeTableLow : List OpcodeRow :=
  [⟨"CLS", 0xFFFF, 0x00E0⟩, ⟨"RET", 0xFFFF, 0x00EE⟩, ⟨"JP_nnn", 0xF000, 0x1000⟩, ⟨"CALL_nnn", 0xF000, 0x2000⟩,
    ⟨"SE_Vx_nn", 0xF000, 0x3000⟩, ⟨"SNE_Vx_nn", 0xF000, 0x4000⟩, ⟨"SE_Vx_Vy", 0xF000, 0x5000⟩, ⟨"LD_Vx_nn", 0xF000, 0x6000⟩,
    ⟨"ADD_Vx_nn", 0xF000, 0x7000⟩, ⟨"SNE_Vx_Vy", 0xF000, 0x9000⟩, ⟨"LD_I_nnn", 0xF000, 0xA000⟩, ⟨"JP_V0_nnn", 0xF000, 0xB000⟩,
    ⟨"RND_Vx_nn", 0xF000, 0xC000⟩, ⟨"DRW_Vx_Vy_n", 0xF000, 0xD000⟩]

/-- The opcode map of R97 for group 0x8. -/
def opcodeTable8 : List OpcodeRow :=
  [⟨"LD_Vx_Vy", 0xF00F, 0x8000⟩, ⟨"OR_Vx_Vy", 0xF00F, 0x8001⟩, ⟨"AND_Vx_Vy", 0xF00F, 0x8002⟩, ⟨"XOR_Vx_Vy", 0xF00F, 0x8003⟩,
    ⟨"ADD_Vx_Vy", 0xF00F, 0x8004⟩, ⟨"SUB_Vx_Vy", 0xF00F, 0x8005⟩, ⟨"SHR_Vx", 0xF00F, 0x8006⟩, ⟨"SUBN_Vx_Vy", 0xF00F, 0x8007⟩,
    ⟨"SHL_Vx", 0xF00F, 0x800E⟩]

/-- The opcode map of R97 for groups 0xE and 0xF. -/
def opcodeTableEF : List OpcodeRow :=
  [⟨"SKP_Vx", 0xF0FF, 0xE09E⟩, ⟨"SKNP_Vx", 0xF0FF, 0xE0A1⟩, ⟨"LD_Vx_DT", 0xF0FF, 0xF007⟩, ⟨"LD_Vx_K", 0xF0FF, 0xF00A⟩,
    ⟨"LD_DT_Vx", 0xF0FF, 0xF015⟩, ⟨"LD_ST_Vx", 0xF0FF, 0xF018⟩, ⟨"ADD_I_Vx", 0xF0FF, 0xF01E⟩, ⟨"LD_F_Vx", 0xF0FF, 0xF029⟩,
    ⟨"LD_B_Vx", 0xF0FF, 0xF033⟩, ⟨"LD__I__Vx", 0xF0FF, 0xF055⟩, ⟨"LD_Vx__I", 0xF0FF, 0xF065⟩]

/-- The opcode map of R97: 34 rows. -/
def opcodeTable : List OpcodeRow := opcodeTableLow ++ opcodeTable8 ++ opcodeTableEF

/-- Does a word belong to a row (R97)? -/
def OpcodeRow.covers (r : OpcodeRow) (w : Word) : Bool := w &&& r.mask == r.pattern

/-- The mnemonic of an instruction, as spec/opcode_table.json spells it. -/
def Instr.mnemonic : Instr → String
  | .cls => "CLS"
  | .ret => "RET"
  | .jp _ => "JP_nnn"
  | .call _ => "CALL_nnn"
  | .seImm _ _ => "SE_Vx_nn"
  | .sneImm _ _ => "SNE_Vx_nn"
  | .seReg _ _ _ => "SE_Vx_Vy"
  | .ldImm _ _ => "LD_Vx_nn"
  | .addImm _ _ => "ADD_Vx_nn"
  | .ldReg _ _ => "LD_Vx_Vy"
  | .orReg _ _ => "OR_Vx_Vy"
  | .andReg _ _ => "AND_Vx_Vy"
  | .xorReg _ _ => "XOR_Vx_Vy"
  | .addReg _ _ => "ADD_Vx_Vy"
  | .subReg _ _ => "SUB_Vx_Vy"
  | .shr _ _ => "SHR_Vx"
  | .subnReg _ _ => "SUBN_Vx_Vy"
  | .shl _ _ => "SHL_Vx"
  | .sneReg _ _ _ => "SNE_Vx_Vy"
  | .ldI _ => "LD_I_nnn"
  | .jpV0 _ => "JP_V0_nnn"
  | .rnd _ _ => "RND_Vx_nn"
  | .drw _ _ _ => "DRW_Vx_Vy_n"
  | .skp _ => "SKP_Vx"
  | .sknp _ => "SKNP_Vx"
  | .ldVxDt _ => "LD_Vx_DT"
  | .ldVxK _ => "LD_Vx_K"
  | .ldDtVx _ => "LD_DT_Vx"
  | .ldStVx _ => "LD_ST_Vx"
  | .addI _ => "ADD_I_Vx"
  | .ldF _ => "LD_F_Vx"
  | .ldB _ => "LD_B_Vx"
  | .storeRegs _ => "LD__I__Vx"
  | .loadRegs _ => "LD_Vx__I"

end Sys2Proof
end

