-- ==== Sys2Proof/Config.lean ====
section
/-! DEFINITION. What an implementation fixes (spec/00_scope.md R5) and the free values: what the host presents at each step (spec/10_state.md R40 to R42). The fixed sizes of R5 (4096 bytes of memory, the font at 0x050, the origin 0x200, 3584 bytes of program, 16 stack entries) are the numbers in the types of State and in the operations. -/

namespace Sys2Proof

/-- The memory parameters of R5: FONT, the 80 bytes at 0x050..0x09F after reset (R34), and MEM_BACKGROUND, what the cells outside the
font and the image hold after reset (R44). DESIGN CHOICE (log entry 4): the ruling D2 leaves MEM_BACKGROUND open as one byte value or as a
function from addresses to bytes; it is held as one byte with the addresses that hold another one, plain data that gives every such
function. Log entry 5 for FONT. -/
structure MemParams where
  /-- FONT -/
  font : Vector Byte 80
  /-- the background byte of every address that `exceptions` does not list -/
  fill : Byte
  /-- the addresses whose background byte is another one; the first pair of an address counts -/
  exceptions : List (Nat × Byte)
  deriving DecidableEq, Repr, Inhabited

/-- The input lines of an instruction step: the keypad's two parts (R40) and the random byte (R41). The host's duty to keep the two
keypad parts coherent is a premise (`Sample.Coherent` in Safety.lean), not a fact of this type: log entry 11. -/
structure Sample where
  keysDown : BitVec 16
  keyEvent : Option (Fin 16)
  randByte : Byte
  deriving DecidableEq, Repr, Inhabited

/-- The input lines with nothing on them: the value of `sample` after reset, which no step reads (log entry 8). -/
def Sample.quiet : Sample := { keysDown := 0, keyEvent := none, randByte := 0 }

/-- What the host asks for: an instruction step or a tick step (R42), or a reset with its load (R270, R286: the host hands over the
image and the parameters). Log entry 10. -/
inductive Request where
  | doStep
  | doTick
  | resetLoad (rom : List Byte) (params : MemParams)
  deriving DecidableEq, Repr, Inhabited

/-- One input of the host: its request and what the input lines show at that step. -/
structure HostInput where
  request : Request
  sample : Sample
  deriving DecidableEq, Repr, Inhabited

/-- FREE VALUE: which agent moves at the n-th step where the state's script does not say. No rule fixes the interleaving (R6, R284).
DESIGN CHOICE (log entry 7): opaque, so no proof can see it; safe. -/
opaque Config.hostRequest : Nat → Request

/-- FREE VALUE: the keypad sample and random byte of the n-th step where the state's script does not say (R40, R41, R172).
DESIGN CHOICE (log entry 7): opaque, so no proof can see it; safe. -/
opaque Config.hostSample : Nat → Sample

end Sys2Proof
end

