-- ==== Sys2Proof/Machine/Font.lean ====
section
/-! DEFINITION. What memory holds after reset where nothing was loaded: the font and the background (spec/10_state.md R31, R34, R44), and the parameters' default values. -/

namespace Sys2Proof.Machine

/-- Glyphs 0 to 7 of the default font (R34). PRESUMED: the spec takes the bytes from general knowledge (G1); log entry 5. -/
def defaultGlyphsLow : List Byte :=
  [0xF0, 0x90, 0x90, 0x90, 0xF0] ++ [0x20, 0x60, 0x20, 0x20, 0x70] ++ [0xF0, 0x10, 0xF0, 0x80, 0xF0] ++ [0xF0, 0x10, 0xF0, 0x10, 0xF0] ++
  [0x90, 0x90, 0xF0, 0x10, 0x10] ++ [0xF0, 0x80, 0xF0, 0x10, 0xF0] ++ [0xF0, 0x80, 0xF0, 0x90, 0xF0] ++ [0xF0, 0x10, 0x20, 0x40, 0x40]

/-- Glyphs 8 to F of the default font (R34). PRESUMED as the low glyphs; log entry 5. -/
def defaultGlyphsHigh : List Byte :=
  [0xF0, 0x90, 0xF0, 0x90, 0xF0] ++ [0xF0, 0x90, 0xF0, 0x10, 0xF0] ++ [0xF0, 0x90, 0xF0, 0x90, 0x90] ++ [0xE0, 0x90, 0xE0, 0x90, 0xE0] ++
  [0xF0, 0x80, 0x80, 0x80, 0xF0] ++ [0xE0, 0x90, 0x90, 0x90, 0xE0] ++ [0xF0, 0x80, 0xF0, 0x80, 0xF0] ++ [0xF0, 0x80, 0xF0, 0x80, 0x80]

/-- The default value of parameter FONT: 16 glyphs of 5 bytes, glyph d at FONT[5d] (R34). -/
def defaultFont : Vector Byte 80 := ⟨(defaultGlyphsLow ++ defaultGlyphsHigh).toArray, rfl⟩

/-- The parameters' default values: the font of R34 and the recommended MEM_BACKGROUND 0x00 (R5, R44). DESIGN CHOICE (log entry 4)
and PRESUMED (log entry 5): unsafe for a claim that rests on State.reset's bytes, safe for claims over all states. -/
def defaultParams : MemParams := { font := defaultFont, fill := 0x00, exceptions := [] }

end Sys2Proof.Machine

/-- MEM_BACKGROUND at an address: one byte value, or any function of the address (R5, D2; log entry 4). -/
def Sys2Proof.MemParams.background (p : Sys2Proof.MemParams) (a : Nat) : Sys2Proof.Byte := (p.exceptions.lookup a).getD p.fill

/-- The byte at an address that nothing has written since reset: the font's at 0x050..0x09F, MEM_BACKGROUND's elsewhere (R31, R44).
This is the one definition of what an unlisted address of memory reads as. -/
def Sys2Proof.MemParams.byteAt (p : Sys2Proof.MemParams) (a : Nat) : Sys2Proof.Byte :=
  if h : 0x050 ≤ a ∧ a < 0x0A0 then p.font[a - 0x050] else p.background a
end

