-- ==== Sys2Proof/Machine/State.lean ====
section
/-! DEFINITION. The state of the CORE (spec/10_state.md R20 to R36), the reasons a step could stop, and the state after reset (R44, spec/70_reset_and_hazards.md R270). -/

namespace Sys2Proof.Machine

/-- Why the machine could stop with a fault: for no reason. The spec gives every step an effect, and its fatal conditions are NEXT
states in which the core is Halted (R233, R241), so this type has no constructor: nothing raises one. Log entry 16: safe. -/
inductive Fault
  deriving DecidableEq, Repr

/-- Why the machine could refuse an instruction. -/
inductive Refusal where
  /-- The instruction has no meaning yet; raised by no arm of `exec`, all 34 of which have their meaning. Safe. -/
  | notModelled (mnemonic : String)
  deriving DecidableEq, Repr

/-- What a step or a meaning answers. -/
abbrev Result (σ : Type) := Host.Outcome σ Fault Refusal

/-- RUN (R35). -/
inductive RunState where
  | running
  | halted
  deriving DecidableEq, Repr

/-- HALT_CAUSE (R35, R238). -/
inductive HaltCause where
  | noCause
  | programExhausted
  | stackOverflow
  | stackUnderflow
  | addressOutOfRange
  deriving DecidableEq, Repr

/-- The halt record, read by the host and never by a program (R35). A register with a valid bit is an Option (log entry 15). -/
structure Status where
  /-- RUN -/
  run : RunState
  /-- HALT_CAUSE -/
  haltCause : HaltCause
  /-- HALT_PC -/
  haltPc : Word
  /-- HALT_INSN with its valid bit -/
  haltInsn : Option Word
  /-- HALT_ADDR with its valid bit -/
  haltAddr : Option (BitVec 17)
  deriving DecidableEq, Repr

/-- The event UnsupportedInstruction(pc, w) on the `diag` output (R43(d), R236). -/
structure Diag where
  pc : Word
  word : Word
  deriving DecidableEq, Repr

/-- MEM as the cells that differ from what memory held after reset (`MemParams.byteAt`), addresses strictly rising. -/
abbrev Memory := List Host.Cell

/-- DISP: 32 rows of 64 pixels (R32). -/
abbrev Display := Vector (Vector Bool 64) 32

/-- Everything the spec gives the machine, and the model's own fields `diag`, `sample`, `script` and `clock` (log entries 7 to 9). -/
structure State where
  /-- V0..VF (R20); VF is also the flag register (R21) -/
  v : Vector Byte 16
  /-- I (R22) -/
  i : Word
  /-- PC (R23) -/
  pc : Word
  /-- SP, the stack's depth 0..16 (R26) -/
  sp : Fin 17
  /-- STACK[0..15] (R26) -/
  stack : Vector Word 16
  /-- DT (R28) -/
  dt : Byte
  /-- ST (R28) -/
  st : Byte
  /-- FONT and MEM_BACKGROUND, the parameters of this run (R5) -/
  memParams : MemParams
  /-- MEM (R30) -/
  mem : Memory
  /-- DISP (R32) -/
  disp : Display
  /-- ROM_SIZE, 0..3584 (R33) -/
  romSize : Fin 3585
  /-- WARN_TOO_LARGE (R35) -/
  warnTooLarge : Bool
  /-- RUN, HALT_CAUSE, HALT_PC, HALT_INSN, HALT_ADDR (R35) -/
  status : Status
  /-- the `diag` output of the step that produced this state (R43(d)); no rule reads it -/
  diag : Option Diag
  /-- the input lines of the step under way (R40, R41); every step overwrites it before anything reads it -/
  sample : Sample
  /-- the host's inputs for the coming steps, as far as they are laid down -/
  script : List HostInput
  /-- the index of the free host inputs, one up a step -/
  clock : Nat
  deriving DecidableEq, Repr

/-- RUN, HALT_CAUSE and the record after reset (R44). HALT_PC is unspecified until a halt: DESIGN CHOICE 0 (log entry 3), unsafe. -/
def Status.reset : Status :=
  { run := .running, haltCause := .noCause, haltPc := 0, haltInsn := none, haltAddr := none }

/-- The machine right after reset with no image loaded (R44, R270): PC = 0x200, the stack empty, every other register, the timers and
the display zero, memory as the parameters say. STACK's entries: DESIGN CHOICE 0 (log entry 2), unsafe. -/
def State.reset : State where
  v := Vector.replicate 16 0
  i := 0
  pc := 0x200
  sp := 0
  stack := Vector.replicate 16 0
  dt := 0
  st := 0
  memParams := defaultParams
  mem := []
  disp := Vector.replicate 32 (Vector.replicate 64 false)
  romSize := 0
  warnTooLarge := false
  status := Status.reset
  diag := none
  sample := Sample.quiet
  script := []
  clock := 0

end Sys2Proof.Machine
end

