-- ==== Sys2Proof/Machine/Ops.lean ====
section
/-! DEFINITION. The named operations over registers, memory, stack, program counter and halt record (spec/00_scope.md R8): the only places where State is read or written piece by piece. -/

namespace Sys2Proof.Machine

/-! ### General registers (R20) -/

/-- V[x]. -/
def State.reg (s : State) (x : Reg) : Byte := s.v[x]

/-- V[x] <- b. -/
def State.setReg (s : State) (x : Reg) (b : Byte) : State := { s with v := s.v.set x.val b x.isLt }

/-- VF (R21). -/
abbrev vf : Reg := 15

/-! ### Address register, timers (R22, R28) -/

/-- I <- w. -/
def State.setI (s : State) (w : Word) : State := { s with i := w }

/-- DT <- b. -/
def State.setDt (s : State) (b : Byte) : State := { s with dt := b }

/-- ST <- b. -/
def State.setSt (s : State) (b : Byte) : State := { s with st := b }

/-! ### Next program counter (R24, R231) -/

/-- PC <- NPC at the end of a step. -/
def State.setPc (s : State) (npc : Word) : State := { s with pc := npc }

/-- The default NPC = PC + 2 (R24). DEDUCED: on a PC no run reaches (above 0xFFFD) the sum wraps; log entry 12. -/
def State.advance (s : State) : State := s.setPc (s.pc + 2)

/-- NPC of a skip: PC + 4 if the condition holds, else PC + 2 (R24). -/
def State.skipIf (s : State) (cond : Bool) : State := s.setPc (if cond then s.pc + 4 else s.pc + 2)

/-! ### Call stack (R26, R27) -/

/-- Push(v): no state when the stack is full. -/
def State.push (s : State) (w : Word) : Option State :=
  if h : s.sp.val < 16 then
    some { s with stack := s.stack.set s.sp.val w h, sp := ⟨s.sp.val + 1, by omega⟩ }
  else none

/-- Pop(): the popped entry and the state after, or nothing when the stack is empty. The entry keeps its bits (R27). -/
def State.pop (s : State) : Option (Word × State) :=
  if h : 0 < s.sp.val then
    some (s.stack[s.sp.val - 1], { s with sp := ⟨s.sp.val - 1, by omega⟩ })
  else none

/-! ### Memory (R30, R60 to R67) -/

/-- MEM[a]. -/
def Memory.readByte (p : MemParams) : Memory → Nat → Byte
  | [], a => p.byteAt a
  | (b, v) :: m, a => if b = a then v else Memory.readByte p m a

/-- The cells without any at a. -/
def Memory.erase : Memory → Nat → Memory
  | [], _ => []
  | (b, v) :: m, a => if b = a then Memory.erase m a else (b, v) :: Memory.erase m a

/-- The cells with the one at a holding v, in its place. -/
def Memory.insert : Memory → Nat → Byte → Memory
  | [], a, v => [(a, v)]
  | (b, u) :: m, a, v =>
    if a < b then (a, v) :: (b, u) :: m
    else if a = b then (a, v) :: m
    else (b, u) :: Memory.insert m a v

/-- MEM[a] <- v, in the canonical form: a byte equal to what the address held after reset is not listed. -/
def Memory.writeByte (p : MemParams) (m : Memory) (a : Nat) (v : Byte) : Memory :=
  if v = p.byteAt a then Memory.erase m a else Memory.insert m a v

/-- Bytes written one after the other at rising addresses from a (R61). -/
def Memory.writeBlock (p : MemParams) : Memory → Nat → List Byte → Memory
  | m, _, [] => m
  | m, a, b :: bs => Memory.writeBlock p (Memory.writeByte p m a b) (a + 1) bs

/-- The canonical form: addresses strictly rising and below 4096, and no cell that holds what an unlisted address reads as. -/
abbrev Memory.wf (p : MemParams) (m : Memory) : Prop :=
  m.Pairwise (fun c d => c.1 < d.1) ∧ ∀ c ∈ m, c.1 < 4096 ∧ c.2 ≠ p.byteAt c.1

/-- MEM[a]. -/
def State.readByte (s : State) (a : Nat) : Byte := Memory.readByte s.memParams s.mem a

/-- The n bytes at a, a + 1, ... (R61, R196). -/
def State.readBlock (s : State) (a n : Nat) : List Byte := (List.range n).map fun k => s.readByte (a + k)

/-- Bytes written at rising addresses from a (R61). -/
def State.writeBlock (s : State) (a : Nat) (bs : List Byte) : State :=
  { s with mem := Memory.writeBlock s.memParams s.mem a bs }

/-- The bound check of an instruction's n accesses at base, base + 1, ...: the lowest failing address max(base, 0x1000), if any fails.
No address is reduced before the test, and no access fails when there is none (R66). -/
def spanFault (base n : Nat) : Option (BitVec 17) :=
  if n = 0 ∨ base + n ≤ 4096 then none else some (BitVec.ofNat 17 (max base 0x1000))

/-! ### Halts: the shared operation that takes a terminal or fatal condition (R231 to R235, R241)

Control goes nowhere: there is no handler. There is no return from a halt but the host's reset (R243), `State.launch` below. -/

/-- `raise`: the halt record is written and the core is Halted; nothing else changes, PC least of all (R233). -/
def State.raise (s : State) (cause : HaltCause) (insn : Option Word) (addr : Option (BitVec 17)) : State :=
  { s with status := { run := .halted, haltCause := cause, haltPc := s.pc, haltInsn := insn, haltAddr := addr } }

/-- A fatal condition of an instruction (R231 phase 4): HALT_INSN is its word. -/
def State.raiseIn (s : State) (ins : Instr) (cause : HaltCause) (addr : Option (BitVec 17)) : State :=
  s.raise cause (some (encode ins)) addr

/-- An instruction that makes n accesses from I: the bound check on all of them first, and only then the effect (R66, R233). -/
def State.checked (s : State) (ins : Instr) (n : Nat) (done : State) : State :=
  match spanFault s.i.toNat n with
  | some a => s.raiseIn ins .addressOutOfRange (some a)
  | none => done

/-- An unsupported word: the diag event and PC + 2, nothing else (R236). -/
def State.unsupported (s : State) (w : Word) : State := { s.advance with diag := some { pc := s.pc, word := w } }

/-! ### Fetch (R60, R232) -/

/-- Is PC within the loaded program, 0x200 <= PC < 0x200 + ROM_SIZE (R232)? -/
def State.inProgram (s : State) : Bool := decide (0x200 ≤ s.pc.toNat ∧ s.pc.toNat < 0x200 + s.romSize.val)

/-- The word at PC, PC + 1, or the failing address (R60, R231 phase 2). -/
def State.fetch (s : State) : Except (BitVec 17) Word :=
  match spanFault s.pc.toNat 2 with
  | some a => .error a
  | none => .ok (combineBytes (s.readByte s.pc.toNat) (s.readByte (s.pc.toNat + 1)))

/-! ### Ticks (R245) -/

/-- A timer one tick later: down by one, clamped at 0. -/
def tickDown (b : Byte) : Byte := if 0 < b.toNat then b - 1 else b

/-- TickStep. -/
def State.tick (s : State) : State :=
  match s.status.run with
  | .halted => s
  | .running => (s.setDt (tickDown s.dt)).setSt (tickDown s.st)

/-! ### Reset and load (R270, R271, R273) -/

/-- The launch state for an image and parameters: reset, then the font, then the image's first 3584 bytes at 0x200 (R270, R271). The
font needs no cells: the unlisted addresses 0x050..0x09F read as it. -/
def State.launch (rom : List Byte) (p : MemParams) : State :=
  { State.reset with
    memParams := p
    mem := Memory.writeBlock p [] 0x200 (rom.take 3584)
    romSize := ⟨min rom.length 3584, by omega⟩
    warnTooLarge := decide (3584 < rom.length) }

/-- The host's inputs survive a reset of the machine: they are not its state (R273; log entry 10). -/
def State.resetLoad (s : State) (rom : List Byte) (p : MemParams) : State :=
  { State.launch rom p with sample := s.sample, script := s.script, clock := s.clock }

end Sys2Proof.Machine
end

