-- ==== Sys2Proof/Machine/Operands.lean ====
section
/-! DEFINITION. The operand forms (spec/30_encoding.md R92, spec/43_index_memory.md R192 to R196, spec/44_keypad_timers.md R209). -/

namespace Sys2Proof.Machine

/-- nnn, zero-extended to 16 bits (R92). -/
def addrOf (nnn : Addr12) : Word := nnn.setWidth 16

/-- nnn + V[0], 0x0000..0x10FE, not masked (R147). -/
def offsetTarget (nnn : Addr12) (v0 : Byte) : Word := nnn.setWidth 16 + v0.setWidth 16

/-- I + V[x] mod 65536, V[x] zero-extended (R191). -/
def indexPlus (i : Word) (b : Byte) : Word := i + b.setWidth 16

/-- The glyph address 0x050 + V[x] * 5, on all eight bits of V[x] (R192). -/
def glyphAddr (b : Byte) : Word := BitVec.ofNat 16 (0x050 + b.toNat * 5)

/-- The decimal digits of a byte, hundreds, tens, ones, one byte each (R193). -/
def bcdDigits (b : Byte) : List Byte :=
  [BitVec.ofNat 8 (b.toNat / 100), BitVec.ofNat 8 (b.toNat / 10 % 10), BitVec.ofNat 8 (b.toNat % 10)]

/-- How many registers V0..Vx are: x + 1 (R194, R195). -/
def regCount (x : Reg) : Nat := x.val + 1

/-- The values of V0..Vx in order (R194). -/
def State.regsUpTo (s : State) (x : Reg) : List Byte := (List.range (regCount x)).map fun k => s.reg (Fin.ofNat 16 k)

/-- V[k] <- b0, V[k + 1] <- b1, ... (R195). -/
def State.setRegsFrom (s : State) : Nat → List Byte → State
  | _, [] => s
  | k, b :: bs => State.setRegsFrom (s.setReg (Fin.ofNat 16 k) b) (k + 1) bs

/-- Pressed(k): is the key with code k down? No key has a code above 0xF, and the code is not reduced (R209). -/
def State.pressed (s : State) (k : Byte) : Bool := decide (k.toNat ≤ 0xF) && s.sample.keysDown.getLsbD k.toNat

end Sys2Proof.Machine
end

