-- ==== Sys2Proof/Machine/ControlFlow.lean ====
section
/-! DEFINITION. Control transfer (spec/41_control_flow.md). -/

namespace Sys2Proof.Machine

/-- RET: NPC = Pop(), or StackUnderflow (R140). -/
def execRet (s : State) : Result State :=
  match s.pop with
  | some (target, t) => .next (t.setPc target)
  | none => .next (s.raiseIn .ret .stackUnderflow none)

/-- JP nnn (R141). -/
def execJp (nnn : Addr12) (s : State) : Result State := .next (s.setPc (addrOf nnn))

/-- CALL nnn: Push(PC + 2), NPC = nnn, or StackOverflow (R142). -/
def execCall (nnn : Addr12) (s : State) : Result State :=
  match s.push (s.pc + 2) with
  | some t => .next (t.setPc (addrOf nnn))
  | none => .next (s.raiseIn (.call nnn) .stackOverflow none)

/-- SE Vx,nn (R143). -/
def execSeImm (x : Reg) (nn : Byte) (s : State) : Result State := .next (s.skipIf (s.reg x == nn))

/-- SNE Vx,nn (R144). -/
def execSneImm (x : Reg) (nn : Byte) (s : State) : Result State := .next (s.skipIf (s.reg x != nn))

/-- SE Vx,Vy; the low nibble is ignored (R145). -/
def execSeReg (x y : Reg) (s : State) : Result State := .next (s.skipIf (s.reg x == s.reg y))

/-- SNE Vx,Vy; the low nibble is ignored (R146). -/
def execSneReg (x y : Reg) (s : State) : Result State := .next (s.skipIf (s.reg x != s.reg y))

/-- JP V0,nnn (R147). -/
def execJpV0 (nnn : Addr12) (s : State) : Result State := .next (s.setPc (offsetTarget nnn (s.reg 0)))

end Sys2Proof.Machine
end

