-- ==== Sys2Proof/Machine/Flags.lean ====
section
/-! DEFINITION. The 8-bit ALU's results with a flag (spec/42_load_alu.md R166 to R171). -/

namespace Sys2Proof.Machine

/-- A flag as the byte VF receives: 0x00 or 0x01 (R21). -/
def flagByte (b : Bool) : Byte := if b then 0x01 else 0x00

/-- The carry of a + b out of bit 7 (R167). -/
def carryOut (a b : Byte) : Bool := decide (255 < a.toNat + b.toNat)

/-- No borrow in a - b: a >= b, equal operands included (R168). -/
def noBorrow (a b : Byte) : Bool := decide (b.toNat ≤ a.toNat)

/-- The bit shifted out to the right, a[0] (R169). -/
def outRight (a : Byte) : Bool := a.getLsbD 0

/-- The bit shifted out to the left, a[7] (R171). -/
def outLeft (a : Byte) : Bool := a.getLsbD 7

/-- Steps 3 and 4 of R166: the flag is written to VF, then the result to V[x], which wins when x is 0xF. Both were computed from the
operands before. -/
def State.setFlagged (s : State) (x : Reg) (flag : Bool) (result : Byte) : State :=
  (s.setReg vf (flagByte flag)).setReg x result

end Sys2Proof.Machine
end

