-- ==== Sys2Proof/Machine/Display.lean ====
section
/-! DEFINITION. The display buffer's primitives and its two instructions (spec/40_display.md). -/

namespace Sys2Proof.Machine

/-- DISP[r][c] (R32). -/
def Display.pixel (d : Display) (r : Fin 32) (c : Fin 64) : Bool := d[r][c]

/-- DISP[r][c] <- DISP[r][c] xor 1. -/
def Display.flip (d : Display) (r : Fin 32) (c : Fin 64) : Display :=
  d.set r.val (d[r].set c.val (!d[r][c]) c.isLt) r.isLt

/-- DISP all 0 (R120). -/
def Display.clear : Display := Vector.replicate 32 (Vector.replicate 64 false)

/-- Row[r][7 - c]: bit 7 of a sprite byte is its leftmost pixel (R122). -/
def spriteBit (row : Byte) (c : Nat) : Bool := row.getLsbD (7 - c)

/-- One sprite bit XORed into its pixel, which wraps by itself in both axes; the flag records a pixel going from set to unset (R122). -/
def plotBit (x0 y0 r c : Nat) (bit : Bool) (acc : Display × Bool) : Display × Bool :=
  if bit then
    (acc.1.flip (Fin.ofNat 32 (y0 + r)) (Fin.ofNat 64 (x0 + c)),
      acc.2 || acc.1.pixel (Fin.ofNat 32 (y0 + r)) (Fin.ofNat 64 (x0 + c)))
  else acc

/-- The eight bits of one sprite row, left to right. -/
def plotRow (x0 y0 r : Nat) (row : Byte) (acc : Display × Bool) : Display × Bool :=
  [0, 1, 2, 3, 4, 5, 6, 7].foldl (fun a c => plotBit x0 y0 r c (spriteBit row c) a) acc

/-- The sprite rows from row r on, top to bottom. -/
def plotRows (x0 y0 : Nat) : Nat → List Byte → Display × Bool → Display × Bool
  | _, [], acc => acc
  | r, row :: rows, acc => plotRows x0 y0 (r + 1) rows (plotRow x0 y0 r row acc)

/-- DrawSprite(x0, y0, rows): the display after, and whether any pixel went from set to unset (R122). -/
def Display.drawSprite (d : Display) (x0 y0 : Nat) (rows : List Byte) : Display × Bool := plotRows x0 y0 0 rows (d, false)

/-- DISP <- d. -/
def State.setDisp (s : State) (d : Display) : State := { s with disp := d }

/-- CLS (R120). -/
def execCls (s : State) : Result State := .next (s.setDisp Display.clear).advance

/-- The draw itself: coordinates and sprite bytes are taken from the state before, then DISP and VF are written (R121). -/
def State.draw (s : State) (x y : Reg) (n : Nibble) : State :=
  let out := s.disp.drawSprite (s.reg x).toNat (s.reg y).toNat (s.readBlock s.i.toNat n.toNat)
  (s.setDisp out.1).setReg vf (flagByte out.2)

/-- DRW Vx,Vy,n (R121). -/
def execDrw (x y : Reg) (n : Nibble) (s : State) : Result State :=
  .next (s.checked (.drw x y n) n.toNat (s.draw x y n).advance)

end Sys2Proof.Machine
end

