-- ==== Sys2Proof/Machine/IndexMemory.lean ====
section
/-! DEFINITION. The address register and the memory transfers (spec/43_index_memory.md). No transfer changes I (R196). -/

namespace Sys2Proof.Machine

/-- LD I,nnn (R190). -/
def execLdI (nnn : Addr12) (s : State) : Result State := .next (s.setI (addrOf nnn)).advance

/-- ADD I,Vx: modulo 65536, no flag (R191). -/
def execAddI (x : Reg) (s : State) : Result State := .next (s.setI (indexPlus s.i (s.reg x))).advance

/-- LD F,Vx (R192). -/
def execLdF (x : Reg) (s : State) : Result State := .next (s.setI (glyphAddr (s.reg x))).advance

/-- LD B,Vx: the three digits to I, I + 1, I + 2 (R193). -/
def execLdB (x : Reg) (s : State) : Result State :=
  .next (s.checked (.ldB x) 3 (s.writeBlock s.i.toNat (bcdDigits (s.reg x))).advance)

/-- LD [I],Vx: V0..Vx to I.. (R194). -/
def execStoreRegs (x : Reg) (s : State) : Result State :=
  .next (s.checked (.storeRegs x) (regCount x) (s.writeBlock s.i.toNat (s.regsUpTo x)).advance)

/-- LD Vx,[I]: V0..Vx from I.., all bytes read before any register changes (R195). -/
def execLoadRegs (x : Reg) (s : State) : Result State :=
  .next (s.checked (.loadRegs x) (regCount x) (s.setRegsFrom 0 (s.readBlock s.i.toNat (regCount x))).advance)

end Sys2Proof.Machine
end

