-- ==== Sys2Proof/Machine/KeypadTimers.lean ====
section
/-! DEFINITION. The keypad and timer instructions (spec/44_keypad_timers.md). -/

namespace Sys2Proof.Machine

/-- SKP Vx (R210). -/
def execSkp (x : Reg) (s : State) : Result State := .next (s.skipIf (s.pressed (s.reg x)))

/-- SKNP Vx (R211). -/
def execSknp (x : Reg) (s : State) : Result State := .next (s.skipIf (!s.pressed (s.reg x)))

/-- What LD Vx,K does with a key event: without one nothing, not even PC, changes (R212). -/
def State.takeKey (s : State) (x : Reg) : Option (Fin 16) → State
  | none => s.setPc s.pc
  | some k => (s.setReg x (BitVec.ofNat 8 k.val)).advance

/-- LD Vx,K (R212). -/
def execLdVxK (x : Reg) (s : State) : Result State := .next (s.takeKey x s.sample.keyEvent)

/-- LD Vx,DT (R213). -/
def execLdVxDt (x : Reg) (s : State) : Result State := .next (s.setReg x s.dt).advance

/-- LD DT,Vx (R214). -/
def execLdDtVx (x : Reg) (s : State) : Result State := .next (s.setDt (s.reg x)).advance

/-- LD ST,Vx (R215). -/
def execLdStVx (x : Reg) (s : State) : Result State := .next (s.setSt (s.reg x)).advance

end Sys2Proof.Machine
end

