-- ==== Sys2Proof/Machine/LoadAlu.lean ====
section
/-! DEFINITION. Register loads, the ALU and the random instruction (spec/42_load_alu.md). None changes NPC and none can raise. -/

namespace Sys2Proof.Machine

/-- LD Vx,nn (R160). -/
def execLdImm (x : Reg) (nn : Byte) (s : State) : Result State := .next (s.setReg x nn).advance

/-- ADD Vx,nn: modulo 256, no flag (R161). -/
def execAddImm (x : Reg) (nn : Byte) (s : State) : Result State := .next (s.setReg x (s.reg x + nn)).advance

/-- LD Vx,Vy (R162). -/
def execLdReg (x y : Reg) (s : State) : Result State := .next (s.setReg x (s.reg y)).advance

/-- OR Vx,Vy; VF is left as it was (R163). -/
def execOrReg (x y : Reg) (s : State) : Result State := .next (s.setReg x (s.reg x ||| s.reg y)).advance

/-- AND Vx,Vy; VF is left as it was (R164). -/
def execAndReg (x y : Reg) (s : State) : Result State := .next (s.setReg x (s.reg x &&& s.reg y)).advance

/-- XOR Vx,Vy; VF is left as it was (R165). -/
def execXorReg (x y : Reg) (s : State) : Result State := .next (s.setReg x (s.reg x ^^^ s.reg y)).advance

/-- ADD Vx,Vy: VF is the carry (R167). -/
def execAddReg (x y : Reg) (s : State) : Result State :=
  .next (s.setFlagged x (carryOut (s.reg x) (s.reg y)) (s.reg x + s.reg y)).advance

/-- SUB Vx,Vy: VF is 1 when there is no borrow (R168). -/
def execSubReg (x y : Reg) (s : State) : Result State :=
  .next (s.setFlagged x (noBorrow (s.reg x) (s.reg y)) (s.reg x - s.reg y)).advance

/-- SHR Vx: VF is the bit shifted out; Vy plays no part (R169). -/
def execShr (x : Reg) (s : State) : Result State :=
  .next (s.setFlagged x (outRight (s.reg x)) (s.reg x >>> 1)).advance

/-- SUBN Vx,Vy: V[y] - V[x] into V[x]; VF is 1 when there is no borrow (R170). -/
def execSubnReg (x y : Reg) (s : State) : Result State :=
  .next (s.setFlagged x (noBorrow (s.reg y) (s.reg x)) (s.reg y - s.reg x)).advance

/-- SHL Vx: VF is the bit shifted out; Vy plays no part (R171). -/
def execShl (x : Reg) (s : State) : Result State :=
  .next (s.setFlagged x (outLeft (s.reg x)) (s.reg x <<< 1)).advance

/-- RND Vx,nn: the step's random byte, masked (R172). -/
def execRnd (x : Reg) (nn : Byte) (s : State) : Result State := .next (s.setReg x (s.sample.randByte &&& nn)).advance

end Sys2Proof.Machine
end

