-- ==== Sys2Proof/Machine/Cycle.lean ====
section
/-! DEFINITION. The instruction step, the host's inputs and what a step does with them (spec/60_exceptions.md R230 to R245, spec/70_reset_and_hazards.md R273, R286), and the placing of a word where it will be fetched. -/

namespace Sys2Proof.Machine

/-- What the host presents at the next step: the head of the script, or, past its end, the free values (log entry 7). -/
def State.nextInput (s : State) : HostInput :=
  match s.script with
  | input :: _ => input
  | [] => { request := Config.hostRequest s.clock, sample := Config.hostSample s.clock }

/-- The start of a step: the next input is taken and its lines are sampled (R40, R41); `diag` shows nothing unless this step says
otherwise (R43(d)). -/
def State.present (s : State) : State :=
  { s with sample := s.nextInput.sample, script := s.script.tail, clock := s.clock + 1, diag := none }

/-- Phases 3 to 5 of the instruction step on a fetched word: its instruction, or the diagnostic (R231, R236). -/
def execWord (w : Word) (s : State) : Result State :=
  match decodeWord w with
  | some i => exec i s
  | none => .next (s.unsupported w)

/-- InstructionStep (R231): halted, program exhausted, fetch, then the word. -/
def instructionStep (s : State) : Result State :=
  match s.status.run with
  | .halted => .next s
  | .running =>
    if s.inProgram then
      match s.fetch with
      | .error a => .next (s.raise .addressOutOfRange none (some a))
      | .ok w => execWord w s
    else .next (s.raise .programExhausted none none)

/-- One step of the machine, after the inputs are sampled: the agent the host asks for moves (R6, R42, R230, R245, R270). -/
def serve (r : Request) (s : State) : Result State :=
  match r with
  | .doStep => instructionStep s
  | .doTick => .next s.tick
  | .resetLoad rom p => .next (s.resetLoad rom p)

/-- The step: the next input is sampled and served. -/
def hostStep (s : State) : Result State := serve s.nextInput.request s.present

/-- Where a word can be placed so that it is fetched next: PC where PC and PC + 1 are in 0x200..0xFFF, else the origin. -/
def State.placePc (s : State) : Word := if 0x200 ≤ s.pc.toNat ∧ s.pc.toNat ≤ 0xFFE then s.pc else 0x200

/-- The state with a word where the next instruction step fetches, and with all that this takes (log entry 20): PC in range, ROM_SIZE
reaching past the word, the core Running, and the host asking for an instruction step with the sample it would have presented. -/
def State.placeWord (s : State) (w : Word) : State :=
  { (s.setPc s.placePc).writeBlock s.placePc.toNat [highByte w, lowByte w] with
    romSize := ⟨max s.romSize.val (min (s.placePc.toNat + 2 - 0x200) 3584), by omega⟩
    status := Status.reset
    script := { request := .doStep, sample := s.nextInput.sample } :: s.script.tail }

end Sys2Proof.Machine
end

