-- ==== Sys2Proof/Machine/Step.lean ====
section
/-! DEFINITION. The step, and the placing of an opcode-table word where the step fetches. -/

namespace Sys2Proof.Machine

/-- One step of the machine: the host's next input is sampled and the agent it asks for moves (spec/60_exceptions.md R230). -/
def step (s : State) : Host.Outcome State Fault Refusal := hostStep s

/-- s with the instruction whose bits are the low nbits bits of w, numbered as spec/opcode_table.json numbers them, stored where step
fetches next (log entry 20). -/
def State.withFetchWord (s : State) (nbits w : Nat) : State := s.placeWord (BitVec.ofNat 16 (w % 2 ^ nbits))

end Sys2Proof.Machine
end

