-- ==== Sys2Proof/Machine/Outputs.lean ====
section
/-! DEFINITION. The outputs, functions of the state that the host reads between steps (spec/10_state.md R43), and the condition codes (spec/60_exceptions.md R238). -/

namespace Sys2Proof.Machine

/-- display_view: pixel (r, c) of the buffer (R43(a)). -/
def State.displayView (s : State) (r : Fin 32) (c : Fin 64) : Bool := s.disp.pixel r c

/-- sound_active = (ST > 0) (R43(b)). -/
def State.soundActive (s : State) : Bool := decide (0 < s.st.toNat)

/-- ROM_SIZE as the host reads it, 12 bits (R35). -/
def State.romSizeView (s : State) : BitVec 12 := BitVec.ofNat 12 s.romSize.val

/-- The complete list of conditions (R238). -/
inductive Condition where
  | noCondition
  | programExhausted
  | stackOverflow
  | stackUnderflow
  | addressOutOfRange
  | unsupportedInstruction
  | programTooLarge
  | invalidRomSource
  deriving DecidableEq, Repr

/-- How a condition ends or does not end a run (R238). InvalidRomSource belongs to the external collaborator: the CORE is not started. -/
inductive ConditionClass where
  | noClass
  | terminal
  | fatal
  | recoverable
  deriving DecidableEq, Repr

/-- The condition's code (R238). -/
def Condition.code : Condition → Nat
  | .noCondition => 0
  | .programExhausted => 1
  | .stackOverflow => 2
  | .stackUnderflow => 3
  | .addressOutOfRange => 4
  | .unsupportedInstruction => 5
  | .programTooLarge => 6
  | .invalidRomSource => 7

/-- The condition's class (R238). -/
def Condition.classOf : Condition → ConditionClass
  | .noCondition => .noClass
  | .programExhausted => .terminal
  | .stackOverflow | .stackUnderflow | .addressOutOfRange | .invalidRomSource => .fatal
  | .unsupportedInstruction | .programTooLarge => .recoverable

/-- The condition a halt records (R35, R238). -/
def HaltCause.condition : HaltCause → Condition
  | .noCause => .noCondition
  | .programExhausted => .programExhausted
  | .stackOverflow => .stackOverflow
  | .stackUnderflow => .stackUnderflow
  | .addressOutOfRange => .addressOutOfRange

/-- HALT_CAUSE as the host reads it (R238). -/
def State.haltCode (s : State) : Nat := s.status.haltCause.condition.code

end Sys2Proof.Machine
end

