-- ==== Sys2Proof/Safety.lean ====
section
/-! DEFINITION. The terms claims are stated in: invariants of the machine, the end of a run, what a step may leave unchanged, and runs. -/

namespace Sys2Proof.Machine

/-! ### Invariants -/

/-- The halt record is consistent: Running with nothing recorded, or Halted with the failing PC recorded, with the word and the address
exactly where R238 records them, and with PC outside the program exactly when the program was exhausted (R232 to R235, R238). -/
def State.RecordOk (s : State) : Prop :=
  match s.status.run, s.status.haltCause with
  | .running, .noCause => s.status.haltInsn = none ∧ s.status.haltAddr = none
  | .halted, .programExhausted =>
    s.status.haltPc = s.pc ∧ s.inProgram = false ∧ s.status.haltInsn = none ∧ s.status.haltAddr = none
  | .halted, .stackOverflow =>
    s.status.haltPc = s.pc ∧ s.inProgram = true ∧ s.sp.val = 16 ∧ s.status.haltInsn ≠ none ∧ s.status.haltAddr = none
  | .halted, .stackUnderflow =>
    s.status.haltPc = s.pc ∧ s.inProgram = true ∧ s.sp.val = 0 ∧ s.status.haltInsn ≠ none ∧ s.status.haltAddr = none
  | .halted, .addressOutOfRange =>
    s.status.haltPc = s.pc ∧ s.inProgram = true ∧ (s.status.haltInsn = none → s.pc = 0xFFF) ∧
      ∃ a, s.status.haltAddr = some a ∧ 0x1000 ≤ a.toNat ∧ a.toNat ≤ 0xFFFF
  | _, _ => False

/-- Every live stack entry is a return address in 0x202..0x1000 (R140). -/
def State.StackOk (s : State) : Prop := ∀ k : Fin 16, k.val < s.sp.val → 0x202 ≤ s.stack[k].toNat ∧ s.stack[k].toNat ≤ 0x1000

/-- PC never passes 0x10FE (R25). -/
def State.PcOk (s : State) : Prop := s.pc.toNat ≤ 0x10FE

/-- The machine's invariant: memory in canonical form, a consistent halt record, live return addresses and PC in their ranges. -/
def State.Inv (s : State) : Prop := s.mem.wf s.memParams ∧ s.RecordOk ∧ s.StackOk ∧ s.PcOk

/-- PC and every live return address are even (R25, R148). -/
def State.EvenOk (s : State) : Prop := s.pc.toNat % 2 = 0 ∧ ∀ k : Fin 16, k.val < s.sp.val → s.stack[k].toNat % 2 = 0

/-! ### The end of a run (R274) -/

/-- The run has ended. -/
def State.Ended (s : State) : Prop := s.status.run = .halted

/-- The clean end: natural program exhaustion. -/
def State.CleanEnd (s : State) : Prop := s.Ended ∧ s.status.haltCause = .programExhausted

/-- The end by a fatal condition. -/
def State.FatalEnd (s : State) : Prop := s.Ended ∧ s.status.haltCause.condition.classOf = .fatal

/-! ### What is left unchanged -/

/-- Every byte of memory reads as before. -/
def State.SameMem (s t : State) : Prop := ∀ a, t.readByte a = s.readByte a

/-- Every byte of memory outside the n bytes at base reads as before. -/
def State.SameMemOutside (s t : State) (base n : Nat) : Prop := ∀ a, ¬(base ≤ a ∧ a < base + n) → t.readByte a = s.readByte a

/-- Every general register is unchanged. -/
def State.SameRegs (s t : State) : Prop := ∀ z, t.reg z = s.reg z

/-- Every general register but x is unchanged. -/
def State.SameRegsBut (s t : State) (x : Reg) : Prop := ∀ z, z ≠ x → t.reg z = s.reg z

/-- SP and every stack entry are unchanged. -/
def State.SameStack (s t : State) : Prop := t.sp = s.sp ∧ t.stack = s.stack

/-- DT and ST are unchanged. -/
def State.SameTimers (s t : State) : Prop := t.dt = s.dt ∧ t.st = s.st

/-- Every pixel is unchanged. -/
def State.SameDisp (s t : State) : Prop := ∀ r c, t.disp.pixel r c = s.disp.pixel r c

/-- What no instruction that does not raise touches: the halt record, ROM_SIZE, WARN_TOO_LARGE, the parameters, the model's own
fields. -/
def State.SameBase (s t : State) : Prop :=
  t.status = s.status ∧ t.romSize = s.romSize ∧ t.warnTooLarge = s.warnTooLarge ∧ t.memParams = s.memParams ∧
    t.diag = s.diag ∧ t.sample = s.sample ∧ t.script = s.script ∧ t.clock = s.clock

/-- The frame of an instruction that writes PC and nothing else. -/
def State.OnlyPc (s t : State) : Prop :=
  s.SameRegs t ∧ t.i = s.i ∧ s.SameStack t ∧ s.SameTimers t ∧ s.SameMem t ∧ s.SameDisp t ∧ s.SameBase t

/-- The frame of an instruction that writes V[x] and PC and nothing else. -/
def State.OnlyRegPc (s t : State) (x : Reg) : Prop :=
  s.SameRegsBut t x ∧ t.i = s.i ∧ s.SameStack t ∧ s.SameTimers t ∧ s.SameMem t ∧ s.SameDisp t ∧ s.SameBase t

/-- The frame of an instruction that writes general registers and PC and nothing else; which registers is said beside it. -/
def State.OnlyRegsPc (s t : State) : Prop :=
  t.i = s.i ∧ s.SameStack t ∧ s.SameTimers t ∧ s.SameMem t ∧ s.SameDisp t ∧ s.SameBase t

/-- The frame of an instruction that writes I and PC and nothing else. -/
def State.OnlyIndexPc (s t : State) : Prop :=
  s.SameRegs t ∧ s.SameStack t ∧ s.SameTimers t ∧ s.SameMem t ∧ s.SameDisp t ∧ s.SameBase t

/-- The frame of an instruction that stores n bytes at base, writes PC, and nothing else. -/
def State.OnlyMemPc (s t : State) (base n : Nat) : Prop :=
  s.SameRegs t ∧ t.i = s.i ∧ s.SameStack t ∧ s.SameTimers t ∧ s.SameMemOutside t base n ∧ s.SameDisp t ∧ s.SameBase t

/-- The frame of an instruction that writes the stack and PC and nothing else. -/
def State.OnlyStackPc (s t : State) : Prop :=
  s.SameRegs t ∧ t.i = s.i ∧ s.SameTimers t ∧ s.SameMem t ∧ s.SameDisp t ∧ s.SameBase t

/-- A fatal halt is precise: only the halt record is written, with these values (R233). -/
def State.HaltedBy (s t : State) (cause : HaltCause) (insn : Option Word) (addr : Option Nat) : Prop :=
  t = { s with status := t.status } ∧ t.status.run = .halted ∧ t.status.haltCause = cause ∧ t.status.haltPc = s.pc ∧
    t.status.haltInsn = insn ∧ t.status.haltAddr.map BitVec.toNat = addr

/-- Everything the spec gives the machine is unchanged; the host's inputs and the output event are not part of it. -/
def State.SameMachine (s t : State) : Prop :=
  t = { s with diag := t.diag, sample := t.sample, script := t.script, clock := t.clock }

/-- What a flag-setting operation leaves: the result in V[x], the flag in VF unless V[x] is VF, everything else but PC as it was
(R166). -/
def State.FlaggedResult (s t : State) (x : Reg) (flag result : Nat) : Prop :=
  (t.reg x).toNat = result ∧ (x ≠ vf → (t.reg vf).toNat = flag) ∧ (∀ z, z ≠ x → z ≠ vf → t.reg z = s.reg z) ∧
    s.OnlyRegsPc t ∧ t.pc = s.pc + 2

end Sys2Proof.Machine

namespace Sys2Proof

open Machine

/-! ### The host's duty -/

/-- The host keeps the two keypad parts coherent: no event exactly when no key is down, and an event's key is down (R40). -/
def Sample.Coherent (m : Sample) : Prop :=
  (m.keyEvent = none ↔ m.keysDown = 0) ∧ ∀ k, m.keyEvent = some k → m.keysDown.getLsbD k.val = true

/-! ### Instructions as claims name them -/

/-- The instruction's word is n, both ways (R97). -/
def Instr.HasWord (i : Instr) (n : Nat) : Prop := (encode i).toNat = n ∧ decodeWord (BitVec.ofNat 16 n) = some i

/-- When an instruction raises its fatal condition (R234, R235). -/
def Instr.Raises (i : Instr) (s : State) : Prop :=
  match i with
  | .ret => s.sp.val = 0
  | .call _ => s.sp.val = 16
  | .drw _ _ n => 1 ≤ n.toNat ∧ 4096 ≤ s.i.toNat + n.toNat - 1
  | .ldB _ => 4096 ≤ s.i.toNat + 2
  | .storeRegs x | .loadRegs x => 4096 ≤ s.i.toNat + x.val
  | .cls | .jp _ | .seImm _ _ | .sneImm _ _ | .seReg _ _ _ | .ldImm _ _ | .addImm _ _ => False
  | .ldReg _ _ | .orReg _ _ | .andReg _ _ | .xorReg _ _ | .addReg _ _ | .subReg _ _ | .shr _ _ | .subnReg _ _ | .shl _ _ => False
  | .sneReg _ _ _ | .ldI _ | .jpV0 _ | .rnd _ _ | .skp _ | .sknp _ | .ldVxDt _ | .ldVxK _ | .ldDtVx _ | .ldStVx _ => False
  | .addI _ | .ldF _ => False

/-- Which general registers an instruction may write: its destination, VF where it writes VF as a flag, V0..Vx for the register load
(R20, R21). -/
def Instr.MayWriteReg (i : Instr) (z : Reg) : Prop :=
  match i with
  | .addReg x _ | .subReg x _ | .subnReg x _ | .shr x _ | .shl x _ => z = x ∨ z = vf
  | .drw _ _ _ => z = vf
  | .ldImm x _ | .addImm x _ | .ldReg x _ | .orReg x _ | .andReg x _ | .xorReg x _ | .rnd x _ | .ldVxDt x | .ldVxK x => z = x
  | .loadRegs x => z.val ≤ x.val
  | .cls | .ret | .jp _ | .call _ | .seImm _ _ | .sneImm _ _ | .seReg _ _ _ | .sneReg _ _ _ | .ldI _ | .jpV0 _ => False
  | .skp _ | .sknp _ | .ldDtVx _ | .ldStVx _ | .addI _ | .ldF _ | .ldB _ | .storeRegs _ => False

/-- A control transfer to an even address; true of every other instruction (R25). -/
def Instr.EvenTarget (i : Instr) (s : State) : Prop :=
  match i with
  | .jp nnn | .call nnn => nnn.toNat % 2 = 0
  | .jpV0 nnn => (nnn.toNat + (s.reg 0).toNat) % 2 = 0
  | .cls | .ret | .seImm _ _ | .sneImm _ _ | .seReg _ _ _ | .ldImm _ _ | .addImm _ _ => True
  | .ldReg _ _ | .orReg _ _ | .andReg _ _ | .xorReg _ _ | .addReg _ _ | .subReg _ _ | .shr _ _ | .subnReg _ _ | .shl _ _ => True
  | .sneReg _ _ _ | .ldI _ | .rnd _ _ | .drw _ _ _ | .skp _ | .sknp _ | .ldVxDt _ | .ldVxK _ | .ldDtVx _ | .ldStVx _ => True
  | .addI _ | .ldF _ | .ldB _ | .storeRegs _ | .loadRegs _ => True

end Sys2Proof

namespace Sys2Proof.Machine

/-- Pixel (r, c) lies under a 1 bit of the n-row sprite at I drawn with its top left at column x0, row y0: bit 7 of a row is its
leftmost pixel, and every pixel wraps by itself (R122). -/
def State.SpriteHit (s : State) (x0 y0 n : Nat) (r : Fin 32) (c : Fin 64) : Prop :=
  ∃ k j, k < n ∧ j < 8 ∧ r.val = (y0 + k) % 32 ∧ c.val = (x0 + j) % 64 ∧ (s.readByte (s.i.toNat + k)).getLsbD (7 - j) = true

/-! ### Runs -/

/-- Steps of the machine from s to t, none of them a reset, with the stack deeper than d all along: what happens inside a subroutine
whose return address is entry d. -/
inductive InsideCall (d : Nat) : State → State → Prop where
  | start (s : State) (deep : d < s.sp.val) : InsideCall d s s
  | next {s t u : State} (before : InsideCall d s t) (noReset : t.nextInput.request = .doStep ∨ t.nextInput.request = .doTick)
      (moves : step t = .next u) (deep : d < u.sp.val) : InsideCall d s u

end Sys2Proof.Machine
end

