-- ==== Sys2Proof/Certificates/Slice0/Obligations.lean ====
section
/-! DEFINITION. The statements for the provers. Each docstring names the rules of spec/ it formalises. PC + 2 and PC + 4 are written as
16-bit sums: they are the spec's numbers wherever an instruction step executes, since PC is then at most 0xFFE (spec/10_state.md R25; log
entry 12). -/

open Sys2Proof Sys2Proof.Machine

/-! ### Encoding (30_encoding.md) -/

/-- R91, R97: every instruction is decoded from its word, with every operand value. That the ignored nibble of groups 5 and 9 and the
ignored y of the shifts are operands of the instruction is the model's choice (log entry 14, DEDUCED). -/
def Obligations.DecodeOfEncode : Prop := ∀ i : Instr, decodeWord (encode i) = some i

/-- R93, R97: a supported word has one meaning. THE MODEL'S CHOICE, not a rule of the spec: the instruction determines its word, the
ignored nibble of groups 5 and 9 and the ignored y of the shifts included, because the model keeps these bits as fields (log entry 14,
DEDUCED from what HALT_INSN records). -/
def Obligations.EncodeOfDecode : Prop := ∀ (w : Word) (i : Instr), decodeWord w = some i → encode i = w

/-- R93, R97: the two-level dispatcher decodes a word to an instruction of mnemonic m exactly when the opcode map's row of that
mnemonic matches it (word AND mask = match). -/
def Obligations.DispatcherFollowsOpcodeMap : Prop :=
  ∀ (w : Word) (m : String), (∃ i, decodeWord w = some i ∧ i.mnemonic = m) ↔ ∃ r ∈ opcodeTable, r.mnemonic = m ∧ w &&& r.mask = r.pattern

/-- R98: the set of unsupported words, group by group. -/
def Obligations.UnsupportedWordsAre : Prop :=
  ∀ w : Word, decodeWord w = none ↔
    (opField w = 0x0 ∧ w ≠ 0x00E0 ∧ w ≠ 0x00EE) ∨
      (opField w = 0x8 ∧ bits w 3 0 ∈ [0x8, 0x9, 0xA, 0xB, 0xC, 0xD, 0xF]) ∨
      (opField w = 0xE ∧ bits w 7 0 ∉ [0x9E, 0xA1]) ∨
      (opField w = 0xF ∧ bits w 7 0 ∉ [0x07, 0x0A, 0x15, 0x18, 0x1E, 0x29, 0x33, 0x55, 0x65])

/-- 95_test_vectors.md S7 to S10: the words and instructions that the source shows. -/
def Obligations.SourceWordsDecode : Prop :=
  decodeWord 0x00E0 = some .cls ∧ decodeWord 0x6005 = some (.ldImm 0 0x05) ∧ decodeWord 0x7003 = some (.addImm 0 0x03) ∧
    decodeWord 0x8014 = some (.addReg 0 1) ∧ decodeWord 0xA050 = some (.ldI 0x050) ∧ decodeWord 0xF029 = some (.ldF 0) ∧
    decodeWord 0xD005 = some (.drw 0 0 5)

/-! ### The step (60_exceptions.md R231 to R239) -/

/-- R231: when the core is Running, the host asks for an instruction step, PC is in the program and the bytes at PC and PC + 1 decode to
i, the step is exec of i on the state whose input lines show the host's sample; the input is used up and `diag` shows
nothing (the model's own fields, log entries 7 to 9). -/
def Obligations.StepRunsDecodedInstruction : Prop :=
  ∀ (s : State) (i : Instr), s.status.run = .running → s.nextInput.request = .doStep →
    0x200 ≤ s.pc.toNat → s.pc.toNat < 0x200 + s.romSize.val → s.pc.toNat + 1 < 4096 →
    decodeWord (BitVec.ofNat 16 ((s.readByte s.pc.toNat).toNat * 256 + (s.readByte (s.pc.toNat + 1)).toNat)) = some i →
    step s = exec i { s with sample := s.nextInput.sample, script := s.script.tail, clock := s.clock + 1, diag := none }

/-- R60: the fetched word has MEM[PC] in bits 15..8 and MEM[PC + 1] in bits 7..0, for an odd PC as for an even one; the fetch fails,
with address 0x1000, when PC = 0xFFF. -/
def Obligations.FetchIsBigEndian : Prop :=
  ∀ s : State,
    (s.pc.toNat + 1 < 4096 → ∃ w, s.fetch = .ok w ∧ w.toNat = (s.readByte s.pc.toNat).toNat * 256 + (s.readByte (s.pc.toNat + 1)).toNat ∧
      bits w 15 8 = (s.readByte s.pc.toNat).toNat ∧ bits w 7 0 = (s.readByte (s.pc.toNat + 1)).toNat) ∧
    (s.pc.toNat = 0xFFF → s.fetch = .error 0x1000)

/-- R232, R239: with PC below 0x200 or at or above 0x200 + ROM_SIZE the core halts with cause ProgramExhausted, whatever the memory
holds; HALT_PC is PC and nothing else changes. -/
def Obligations.ProgramExhaustionHalts : Prop :=
  ∀ s : State, s.status.run = .running → s.nextInput.request = .doStep →
    (s.pc.toNat < 0x200 ∨ 0x200 + s.romSize.val ≤ s.pc.toNat) →
    ∃ t, step s = .next t ∧ s.present.HaltedBy t .programExhausted none none

/-- R235, first row, and R231: at PC = 0xFFF inside a full program the second fetch byte fails; no word is recorded. -/
def Obligations.FetchPastMemoryHalts : Prop :=
  ∀ s : State, s.status.run = .running → s.nextInput.request = .doStep → s.pc = 0xFFF → s.romSize.val = 3584 →
    ∃ t, step s = .next t ∧ s.present.HaltedBy t .addressOutOfRange none (some 0x1000)

/-- R236: an unsupported word moves PC by 2 and reports the diag event (PC, w), in the model's field for it (log entry 9); nothing else
changes and the core stays Running. -/
def Obligations.UnsupportedWordIsNoOp : Prop :=
  ∀ (s : State) (w : Word), s.status.run = .running → s.nextInput.request = .doStep → s.inProgram = true → s.fetch = .ok w →
    decodeWord w = none →
    ∃ t, step s = .next t ∧ t.pc.toNat = s.pc.toNat + 2 ∧ t.diag = some { pc := s.pc, word := w } ∧
      t = { s.present with pc := t.pc, diag := t.diag }

/-- THE MODEL'S CHOICE, not a rule of the spec: a step always answers a next state, and so does every instruction in every state, because
the model makes every halt a next state with the halt record written and has no fault and no refusal (log entry 16, DESIGN CHOICE). The
spec's part is the effects that these states hold, which other statements give. -/
def Obligations.EveryStepAnswers : Prop := (∀ s : State, ∃ t, step s = .next t) ∧ ∀ (i : Instr) (s : State), ∃ t, exec i s = .next t

/-- R233: an instruction that changes the halt record raised a fatal condition, and then nothing but the record changed: HALT_PC is the
instruction's own address, HALT_INSN its word, and HALT_ADDR is recorded for AddressOutOfRange only. -/
def Obligations.FatalHaltIsPrecise : Prop :=
  ∀ (i : Instr) (s t : State), exec i s = .next t → t.status ≠ s.status →
    s.HaltedBy t .stackOverflow (some (encode i)) none ∨ s.HaltedBy t .stackUnderflow (some (encode i)) none ∨
      s.HaltedBy t .addressOutOfRange (some (encode i)) (some (max s.i.toNat 0x1000))

/-- R234, R235: an instruction executed by a Running core halts it exactly in the cases of R234 and R235's table. -/
def Obligations.InstructionsHaltExactlyWhen : Prop :=
  ∀ (i : Instr) (s t : State), s.status.run = .running → exec i s = .next t → (t.status.run = .halted ↔ i.Raises s)

/-- R241, R243: a Halted core changes nothing on an instruction step or a tick step, and only a reset leaves Halted. -/
def Obligations.HaltedUntilReset : Prop :=
  (∀ s : State, s.status.run = .halted → (s.nextInput.request = .doStep ∨ s.nextInput.request = .doTick) →
      ∃ t, step s = .next t ∧ s.SameMachine t ∧ t.diag = none) ∧
    ∀ s t : State, s.status.run = .halted → step s = .next t → t.status.run = .running →
      ∃ rom p, s.nextInput.request = .resetLoad rom p

/-! ### Ticks (R245) -/

/-- R245: a tick lowers each timer that is above 0 by one, leaves one that is 0 at 0, and changes nothing else. -/
def Obligations.TickLowersBothTimers : Prop :=
  ∀ s : State, s.status.run = .running → s.nextInput.request = .doTick →
    ∃ t, step s = .next t ∧ (0 < s.dt.toNat → t.dt.toNat + 1 = s.dt.toNat) ∧ (s.dt = 0 → t.dt = 0) ∧
      (0 < s.st.toNat → t.st.toNat + 1 = s.st.toNat) ∧ (s.st = 0 → t.st = 0) ∧
      t = { s.present with dt := t.dt, st := t.st }

/-- 95_test_vectors.md S6, R245: n tick steps take n from each timer and never below 0. The ticks are laid down in the model's
script (log entry 7). -/
def Obligations.TicksCountDownToZero : Prop :=
  ∀ (n : Nat) (m : Sample) (rest : List HostInput) (s : State), s.status.run = .running →
    s.script = List.replicate n { request := .doTick, sample := m } ++ rest →
    ∃ t, core.run n s = .next t ∧ t.dt.toNat = s.dt.toNat - n ∧ t.st.toNat = s.st.toNat - n ∧ t.pc = s.pc ∧ t.script = rest

/-! ### Reset and load (10_state.md R44; 70_reset_and_hazards.md R270, R271, R273) -/

/-- R44, R271: after a reset with an image and parameters, from any state, Halted or not. The model's choices: a reset is a host request
served as a step (log entry 10), and MEM_BACKGROUND is any function of the address (log entry 4). -/
def Obligations.ResetLoadGivesLaunchState : Prop :=
  ∀ (s : State) (rom : List Byte) (p : MemParams), s.nextInput.request = .resetLoad rom p →
    ∃ t, step s = .next t ∧ t.pc = 0x200 ∧ t.sp = 0 ∧ (∀ z, t.reg z = 0) ∧ t.i = 0 ∧ t.dt = 0 ∧ t.st = 0 ∧ t.soundActive = false ∧
      (∀ r c, t.disp.pixel r c = false) ∧ t.status.run = .running ∧ t.status.haltCause = .noCause ∧ t.status.haltInsn = none ∧
      t.status.haltAddr = none ∧ t.romSize.val = min rom.length 3584 ∧ (t.warnTooLarge = true ↔ 3584 < rom.length) ∧
      (∀ k (h : k < rom.length), k < 3584 → t.readByte (0x200 + k) = rom[k]) ∧
      (∀ k (h : k < 80), t.readByte (0x050 + k) = p.font[k]) ∧
      ∀ a, (a < 0x050 ∨ (0x0A0 ≤ a ∧ a < 0x200) ∨ (0x200 + min rom.length 3584 ≤ a ∧ a < 0x1000)) → t.readByte a = p.background a

/-- R44: the values of State.reset that the spec gives, no image being loaded (log entry 6); memory's are the defaults of the parameters
(log entries 4 and 5). Zero in V, I, DT, ST and DISP is the spec's own decision D1, log entry 1. -/
def Obligations.ResetStateValues : Prop :=
  State.reset.pc = 0x200 ∧ State.reset.sp = 0 ∧ (∀ z, State.reset.reg z = 0) ∧ State.reset.i = 0 ∧ State.reset.dt = 0 ∧
    State.reset.st = 0 ∧ (∀ r c, State.reset.disp.pixel r c = false) ∧ State.reset.status.run = .running ∧
    State.reset.status.haltCause = .noCause ∧ State.reset.romSize = 0 ∧ State.reset.warnTooLarge = false ∧
    ∀ a, a < 4096 → State.reset.readByte a = defaultParams.byteAt a

/-! ### Invariants -/

/-- The invariant of Safety.lean holds at reset. -/
def Obligations.ResetMeetsInvariant : Prop := State.reset.Inv

/-- R25, R140, R232 to R238, and memory's canonical form: every step, of whichever agent, keeps the invariant, from every state that has
it. -/
def Obligations.StepKeepsInvariant : Prop := ∀ s t : State, s.Inv → step s = .next t → t.Inv

/-- R25: PC and the live return addresses stay even when the instruction that the step executes, if it executes one, has an even
target. -/
def Obligations.PcStaysEvenWithEvenTargets : Prop :=
  ∀ s t : State, s.EvenOk → step s = .next t →
    (∀ w i, s.nextInput.request = .doStep → s.fetch = .ok w → decodeWord w = some i → i.EvenTarget s) → t.EvenOk

/-- R33, R35: ROM_SIZE and the truncation warning are written by the load and by nothing else. THE MODEL'S CHOICE, not said by these rules:
FONT and MEM_BACKGROUND too, because they are parameters (R5) that the model holds in State (log entries 4 and 5) and that a host's reset
request sets (R286; log entry 10). -/
def Obligations.OnlyLoadSetsProgramSize : Prop :=
  ∀ s t : State, (s.nextInput.request = .doStep ∨ s.nextInput.request = .doTick) → step s = .next t →
    t.romSize = s.romSize ∧ t.warnTooLarge = s.warnTooLarge ∧ t.memParams = s.memParams

/-- R26, R27: a step that is no reset leaves a return address that is live before and after it as it was. -/
def Obligations.LiveReturnAddressesAreKept : Prop :=
  ∀ (s t : State) (k : Fin 16), (s.nextInput.request = .doStep ∨ s.nextInput.request = .doTick) → step s = .next t →
    k.val < s.sp.val → k.val < t.sp.val → t.stack[k] = s.stack[k]

/-! ### Which instructions write what -/

/-- R20, R21: an instruction writes its destination register, VF only as one of the six flag writers or as its destination, and V0..Vx
when it is the register load; no other register. -/
def Obligations.RegisterWriters : Prop :=
  ∀ (i : Instr) (s t : State) (z : Reg), exec i s = .next t → t.reg z ≠ s.reg z → i.MayWriteReg z

/-- R22: I is written by LD I, ADD I and LD F only. R28: DT by LD DT,Vx and ST by LD ST,Vx only (and by ticks). -/
def Obligations.IndexAndTimerWriters : Prop :=
  ∀ (i : Instr) (s t : State), exec i s = .next t →
    (t.i ≠ s.i → (∃ nnn, i = .ldI nnn) ∨ (∃ x, i = .addI x) ∨ ∃ x, i = .ldF x) ∧
      (t.dt ≠ s.dt → ∃ x, i = .ldDtVx x) ∧ (t.st ≠ s.st → ∃ x, i = .ldStVx x)

/-- R26: SP and the stack entries are changed by CALL and RET only. -/
def Obligations.StackWriters : Prop :=
  ∀ (i : Instr) (s t : State), exec i s = .next t → ¬s.SameStack t → i = .ret ∨ ∃ nnn, i = .call nnn

/-- R30: memory is changed by LD B and LD [I] only. -/
def Obligations.MemoryWriters : Prop :=
  ∀ (i : Instr) (s t : State), exec i s = .next t → ¬s.SameMem t → (∃ x, i = .ldB x) ∨ ∃ x, i = .storeRegs x

/-- R32, R123(c): the buffer changes only by DRW and CLS. -/
def Obligations.DisplayWriters : Prop :=
  ∀ (i : Instr) (s t : State), exec i s = .next t → ¬s.SameDisp t → i = .cls ∨ ∃ x y n, i = .drw x y n

/-- R231, R40, R41: RND alone reads the random byte, SKP and SKNP alone keys_down, LD Vx,K alone key_event; an instruction that does not
read a line behaves the same whatever the line shows. -/
def Obligations.InputsReadOnlyByTheirInstructions : Prop :=
  ∀ (i : Instr) (s t : State) (m : Sample), exec i s = .next t →
    (s.sample.randByte = m.randByte ∨ ∀ x nn, i ≠ .rnd x nn) →
    (s.sample.keysDown = m.keysDown ∨ ∀ x, i ≠ .skp x ∧ i ≠ .sknp x) →
    (s.sample.keyEvent = m.keyEvent ∨ ∀ x, i ≠ .ldVxK x) →
    exec i { s with sample := m } = .next { t with sample := m }

/-! ### Display (40_display.md) -/

/-- R120: CLS. -/
def Obligations.ClearZeroesDisplay : Prop :=
  Instr.cls.HasWord 0x00E0 ∧ ∀ s : State, ∃ t, exec .cls s = .next t ∧ (∀ r c, t.disp.pixel r c = false) ∧ t.pc = s.pc + 2 ∧
    s.SameRegs t ∧ t.i = s.i ∧ s.SameStack t ∧ s.SameTimers t ∧ s.SameMem t ∧ s.SameBase t

/-- R121, R122: DRW. Every pixel under a 1 bit of the sprite is inverted, every other one unchanged; VF is 1 exactly when such a pixel was
set; coordinates, bytes and I are those of the state before. With n >= 1 and I + n - 1 >= 4096 it raises AddressOutOfRange instead. -/
def Obligations.DrawXorsSprite : Prop :=
  ∀ (x y : Reg) (n : Nibble) (s : State),
    (Instr.drw x y n).HasWord (0xD000 + x.val * 0x100 + y.val * 0x10 + n.toNat) ∧
    ((n = 0 ∨ s.i.toNat + n.toNat - 1 < 4096) →
      ∃ t, exec (.drw x y n) s = .next t ∧
        (∀ r c, s.SpriteHit (s.reg x).toNat (s.reg y).toNat n.toNat r c → t.disp.pixel r c = !s.disp.pixel r c) ∧
        (∀ r c, ¬s.SpriteHit (s.reg x).toNat (s.reg y).toNat n.toNat r c → t.disp.pixel r c = s.disp.pixel r c) ∧
        ((∃ r c, s.SpriteHit (s.reg x).toNat (s.reg y).toNat n.toNat r c ∧ s.disp.pixel r c = true) → t.reg vf = 1) ∧
        ((∀ r c, s.SpriteHit (s.reg x).toNat (s.reg y).toNat n.toNat r c → s.disp.pixel r c = false) → t.reg vf = 0) ∧
        t.pc = s.pc + 2 ∧ s.SameRegsBut t vf ∧ t.i = s.i ∧ s.SameStack t ∧ s.SameTimers t ∧ s.SameMem t ∧ s.SameBase t) ∧
    (1 ≤ n.toNat → 4096 ≤ s.i.toNat + n.toNat - 1 →
      ∃ t, exec (.drw x y n) s = .next t ∧
        s.HaltedBy t .addressOutOfRange (some (encode (.drw x y n))) (some (max s.i.toNat 0x1000)))

/-- R123(b): the same draw twice restores the buffer, and the second draw's flag is 1 exactly when some sprite 1 bit met a 0 pixel on the
first draw. The coordinate registers are not VF, which the first draw overwrites. -/
def Obligations.SecondDrawRestoresDisplay : Prop :=
  ∀ (x y : Reg) (n : Nibble) (s t u : State), x ≠ vf → y ≠ vf → s.i.toNat + n.toNat ≤ 4096 →
    exec (.drw x y n) s = .next t → exec (.drw x y n) t = .next u →
    (∀ r c, u.disp.pixel r c = s.disp.pixel r c) ∧
      (u.reg vf = 1 ↔ ∃ r c, s.SpriteHit (s.reg x).toNat (s.reg y).toNat n.toNat r c ∧ s.disp.pixel r c = false)

/-- R123(a): on an initially cleared buffer, draw, clear, draw leaves the same buffer as the single draw. -/
def Obligations.DrawClearDrawEqualsDraw : Prop :=
  ∀ (x y : Reg) (n : Nibble) (s t u v : State), x ≠ vf → y ≠ vf → s.i.toNat + n.toNat ≤ 4096 →
    (∀ r c, s.disp.pixel r c = false) →
    exec (.drw x y n) s = .next t → exec .cls t = .next u → exec (.drw x y n) u = .next v →
    ∀ r c, v.disp.pixel r c = t.disp.pixel r c

/-! ### Control flow (41_control_flow.md) -/

/-- R142: CALL pushes PC + 2 and jumps; on a full stack it raises StackOverflow. -/
def Obligations.CallPushesReturnAddress : Prop :=
  ∀ (nnn : Addr12) (s : State), (Instr.call nnn).HasWord (0x2000 + nnn.toNat) ∧
    (∀ h : s.sp.val < 16, ∃ t, exec (.call nnn) s = .next t ∧ t.sp.val = s.sp.val + 1 ∧ t.stack[s.sp.val] = s.pc + 2 ∧
      (∀ k : Fin 16, k.val ≠ s.sp.val → t.stack[k] = s.stack[k]) ∧ t.pc.toNat = nnn.toNat ∧ s.OnlyStackPc t) ∧
    (s.sp.val = 16 → ∃ t, exec (.call nnn) s = .next t ∧ s.HaltedBy t .stackOverflow (some (encode (.call nnn))) none)

/-- R140: RET pops the entry below SP into PC, unmasked; where the live entries are return addresses (the invariant's StackOk) it lies in
0x202..0x1000; on an empty stack RET raises StackUnderflow. -/
def Obligations.ReturnPopsAddress : Prop :=
  Instr.ret.HasWord 0x00EE ∧ ∀ s : State,
    (∀ k : Fin 16, s.sp.val = k.val + 1 → ∃ t, exec .ret s = .next t ∧ t.pc = s.stack[k] ∧
      (s.StackOk → 0x202 ≤ t.pc.toNat ∧ t.pc.toNat ≤ 0x1000) ∧ t.sp.val = k.val ∧ t.stack = s.stack ∧ s.OnlyStackPc t) ∧
    (s.sp.val = 0 → ∃ t, exec .ret s = .next t ∧ s.HaltedBy t .stackUnderflow (some 0x00EE) none)

/-- R148: the program counter after a return equals the address immediately following the matching call: after a CALL, whatever runs
while the stack stays deeper than before the CALL, the RET at the CALL's own depth lands at the CALL's address plus 2. -/
def Obligations.ReturnMatchesItsCall : Prop :=
  ∀ (nnn : Addr12) (s a b c : State), s.sp.val < 16 → exec (.call nnn) s = .next a → InsideCall s.sp.val a b →
    b.sp.val = s.sp.val + 1 → exec .ret b = .next c → c.pc = s.pc + 2 ∧ c.sp = s.sp

/-- R141, R147: JP nnn and JP V0,nnn set PC to nnn, and to nnn + V0 without any mask; nothing else changes. -/
def Obligations.JumpsSetPc : Prop :=
  ∀ (nnn : Addr12) (s : State),
    (Instr.jp nnn).HasWord (0x1000 + nnn.toNat) ∧ (Instr.jpV0 nnn).HasWord (0xB000 + nnn.toNat) ∧
    (∃ t, exec (.jp nnn) s = .next t ∧ t.pc.toNat = nnn.toNat ∧ s.OnlyPc t) ∧
    (∃ t, exec (.jpV0 nnn) s = .next t ∧ t.pc.toNat = nnn.toNat + (s.reg 0).toNat ∧ s.OnlyPc t)

/-- R143, R144: the skips on an immediate. -/
def Obligations.SkipsOnImmediate : Prop :=
  ∀ (x : Reg) (nn : Byte) (s : State),
    (Instr.seImm x nn).HasWord (0x3000 + x.val * 0x100 + nn.toNat) ∧ (Instr.sneImm x nn).HasWord (0x4000 + x.val * 0x100 + nn.toNat) ∧
    (∃ t, exec (.seImm x nn) s = .next t ∧ (s.reg x = nn → t.pc = s.pc + 4) ∧ (s.reg x ≠ nn → t.pc = s.pc + 2) ∧ s.OnlyPc t) ∧
    (∃ t, exec (.sneImm x nn) s = .next t ∧ (s.reg x ≠ nn → t.pc = s.pc + 4) ∧ (s.reg x = nn → t.pc = s.pc + 2) ∧ s.OnlyPc t)

/-- R145, R146: the skips on two registers, whatever the ignored nibble is. -/
def Obligations.SkipsOnRegisters : Prop :=
  ∀ (x y : Reg) (low : Nibble) (s : State),
    (Instr.seReg x y low).HasWord (0x5000 + x.val * 0x100 + y.val * 0x10 + low.toNat) ∧
    (Instr.sneReg x y low).HasWord (0x9000 + x.val * 0x100 + y.val * 0x10 + low.toNat) ∧
    (∃ t, exec (.seReg x y low) s = .next t ∧ (s.reg x = s.reg y → t.pc = s.pc + 4) ∧ (s.reg x ≠ s.reg y → t.pc = s.pc + 2) ∧
      s.OnlyPc t) ∧
    (∃ t, exec (.sneReg x y low) s = .next t ∧ (s.reg x ≠ s.reg y → t.pc = s.pc + 4) ∧ (s.reg x = s.reg y → t.pc = s.pc + 2) ∧
      s.OnlyPc t)

/-! ### Loads and the ALU (42_load_alu.md) -/

/-- R160, R161: the immediate forms; the sum is modulo 256 and sets no flag. -/
def Obligations.ImmediateForms : Prop :=
  ∀ (x : Reg) (nn : Byte) (s : State),
    (Instr.ldImm x nn).HasWord (0x6000 + x.val * 0x100 + nn.toNat) ∧ (Instr.addImm x nn).HasWord (0x7000 + x.val * 0x100 + nn.toNat) ∧
    (∃ t, exec (.ldImm x nn) s = .next t ∧ t.reg x = nn ∧ t.pc = s.pc + 2 ∧ s.OnlyRegPc t x) ∧
    (∃ t, exec (.addImm x nn) s = .next t ∧ (t.reg x).toNat = ((s.reg x).toNat + nn.toNat) % 256 ∧ t.pc = s.pc + 2 ∧ s.OnlyRegPc t x)

/-- R162 to R165: copy, or, and, xor, bit by bit; VF is left as it was unless it is the destination. -/
def Obligations.CopyAndLogic : Prop :=
  ∀ (x y : Reg) (s : State),
    (Instr.ldReg x y).HasWord (0x8000 + x.val * 0x100 + y.val * 0x10) ∧ (Instr.orReg x y).HasWord (0x8001 + x.val * 0x100 + y.val * 0x10) ∧
    (Instr.andReg x y).HasWord (0x8002 + x.val * 0x100 + y.val * 0x10) ∧
    (Instr.xorReg x y).HasWord (0x8003 + x.val * 0x100 + y.val * 0x10) ∧
    (∃ t, exec (.ldReg x y) s = .next t ∧ t.reg x = s.reg y ∧ t.pc = s.pc + 2 ∧ s.OnlyRegPc t x) ∧
    (∃ t, exec (.orReg x y) s = .next t ∧ (∀ k, (t.reg x).getLsbD k = ((s.reg x).getLsbD k || (s.reg y).getLsbD k)) ∧
      t.pc = s.pc + 2 ∧ s.OnlyRegPc t x) ∧
    (∃ t, exec (.andReg x y) s = .next t ∧ (∀ k, (t.reg x).getLsbD k = ((s.reg x).getLsbD k && (s.reg y).getLsbD k)) ∧
      t.pc = s.pc + 2 ∧ s.OnlyRegPc t x) ∧
    (∃ t, exec (.xorReg x y) s = .next t ∧ (∀ k, (t.reg x).getLsbD k = ((s.reg x).getLsbD k != (s.reg y).getLsbD k)) ∧
      t.pc = s.pc + 2 ∧ s.OnlyRegPc t x)

/-- R166, R167: ADD Vx,Vy, operands sampled first, flag before result. -/
def Obligations.AddSetsCarry : Prop :=
  ∀ (x y : Reg) (s : State), (Instr.addReg x y).HasWord (0x8004 + x.val * 0x100 + y.val * 0x10) ∧
    ∃ t, exec (.addReg x y) s = .next t ∧
      s.FlaggedResult t x (if 255 < (s.reg x).toNat + (s.reg y).toNat then 1 else 0) (((s.reg x).toNat + (s.reg y).toNat) % 256)

/-- R166, R168, R170: SUB and SUBN; the flag is 1 when no borrow occurred, equal operands included. -/
def Obligations.SubtractionsSetNoBorrow : Prop :=
  ∀ (x y : Reg) (s : State),
    (Instr.subReg x y).HasWord (0x8005 + x.val * 0x100 + y.val * 0x10) ∧ (Instr.subnReg x y).HasWord (0x8007 + x.val * 0x100 + y.val * 0x10) ∧
    (∃ t, exec (.subReg x y) s = .next t ∧
      s.FlaggedResult t x (if (s.reg y).toNat ≤ (s.reg x).toNat then 1 else 0) (((s.reg x).toNat + 256 - (s.reg y).toNat) % 256)) ∧
    (∃ t, exec (.subnReg x y) s = .next t ∧
      s.FlaggedResult t x (if (s.reg x).toNat ≤ (s.reg y).toNat then 1 else 0) (((s.reg y).toNat + 256 - (s.reg x).toNat) % 256))

/-- R166, R169, R171: SHR and SHL shift Vx by one and put the bit shifted out in VF, as 0 or 1; y plays no part. -/
def Obligations.ShiftsSetBitShiftedOut : Prop :=
  ∀ (x y : Reg) (s : State),
    (Instr.shr x y).HasWord (0x8006 + x.val * 0x100 + y.val * 0x10) ∧ (Instr.shl x y).HasWord (0x800E + x.val * 0x100 + y.val * 0x10) ∧
    (∃ t, exec (.shr x y) s = .next t ∧ s.FlaggedResult t x ((s.reg x).toNat % 2) ((s.reg x).toNat / 2)) ∧
    (∃ t, exec (.shl x y) s = .next t ∧ s.FlaggedResult t x ((s.reg x).toNat / 128) ((s.reg x).toNat * 2 % 256))

/-- R172: RND masks the byte that the host supplies at this step, whatever it is. -/
def Obligations.RandomIsMasked : Prop :=
  ∀ (x : Reg) (nn : Byte) (s : State), (Instr.rnd x nn).HasWord (0xC000 + x.val * 0x100 + nn.toNat) ∧
    ∃ t, exec (.rnd x nn) s = .next t ∧ (∀ k, (t.reg x).getLsbD k = (s.sample.randByte.getLsbD k && nn.getLsbD k)) ∧
      (nn = 0 → t.reg x = 0) ∧ (nn = 0xFF → t.reg x = s.sample.randByte) ∧ t.pc = s.pc + 2 ∧ s.OnlyRegPc t x

/-! ### Address register and memory transfer (43_index_memory.md) -/

/-- R190, R191, R192: LD I,nnn, ADD I,Vx modulo 65536, LD F,Vx on the whole byte; no flag. -/
def Obligations.IndexWrites : Prop :=
  ∀ (nnn : Addr12) (x : Reg) (s : State),
    (Instr.ldI nnn).HasWord (0xA000 + nnn.toNat) ∧ (Instr.addI x).HasWord (0xF01E + x.val * 0x100) ∧
    (Instr.ldF x).HasWord (0xF029 + x.val * 0x100) ∧
    (∃ t, exec (.ldI nnn) s = .next t ∧ t.i.toNat = nnn.toNat ∧ t.pc = s.pc + 2 ∧ s.OnlyIndexPc t) ∧
    (∃ t, exec (.addI x) s = .next t ∧ t.i.toNat = (s.i.toNat + (s.reg x).toNat) % 65536 ∧ t.pc = s.pc + 2 ∧ s.OnlyIndexPc t) ∧
    (∃ t, exec (.ldF x) s = .next t ∧ t.i.toNat = 0x050 + (s.reg x).toNat * 5 ∧ t.pc = s.pc + 2 ∧ s.OnlyIndexPc t)

/-- R193: LD B,Vx stores the hundreds, tens and ones digits, one a byte; I is unchanged; past the end of memory it raises
AddressOutOfRange and stores nothing. -/
def Obligations.BcdStoresDigits : Prop :=
  ∀ (x : Reg) (s : State), (Instr.ldB x).HasWord (0xF033 + x.val * 0x100) ∧
    (s.i.toNat + 2 < 4096 → ∃ t, exec (.ldB x) s = .next t ∧ (t.readByte s.i.toNat).toNat = (s.reg x).toNat / 100 ∧
      (t.readByte (s.i.toNat + 1)).toNat = (s.reg x).toNat / 10 % 10 ∧ (t.readByte (s.i.toNat + 2)).toNat = (s.reg x).toNat % 10 ∧
      t.pc = s.pc + 2 ∧ s.OnlyMemPc t s.i.toNat 3) ∧
    (4096 ≤ s.i.toNat + 2 → ∃ t, exec (.ldB x) s = .next t ∧
      s.HaltedBy t .addressOutOfRange (some (encode (.ldB x))) (some (max s.i.toNat 0x1000)))

/-- R194: LD [I],Vx stores V0..Vx at I..I + x and nothing else; I is unchanged; past the end of memory it raises AddressOutOfRange and
stores nothing. -/
def Obligations.StoreRegistersAtI : Prop :=
  ∀ (x : Reg) (s : State), (Instr.storeRegs x).HasWord (0xF055 + x.val * 0x100) ∧
    (s.i.toNat + x.val < 4096 → ∃ t, exec (.storeRegs x) s = .next t ∧ (∀ z : Reg, z ≤ x → t.readByte (s.i.toNat + z.val) = s.reg z) ∧
      t.pc = s.pc + 2 ∧ s.OnlyMemPc t s.i.toNat (x.val + 1)) ∧
    (4096 ≤ s.i.toNat + x.val → ∃ t, exec (.storeRegs x) s = .next t ∧
      s.HaltedBy t .addressOutOfRange (some (encode (.storeRegs x))) (some (max s.i.toNat 0x1000)))

/-- R195: LD Vx,[I] loads V0..Vx from I..I + x; I and the other registers are unchanged; past the end of memory it raises
AddressOutOfRange and loads nothing. -/
def Obligations.LoadRegistersFromI : Prop :=
  ∀ (x : Reg) (s : State), (Instr.loadRegs x).HasWord (0xF065 + x.val * 0x100) ∧
    (s.i.toNat + x.val < 4096 → ∃ t, exec (.loadRegs x) s = .next t ∧ (∀ z : Reg, z ≤ x → t.reg z = s.readByte (s.i.toNat + z.val)) ∧
      (∀ z : Reg, x < z → t.reg z = s.reg z) ∧ t.pc = s.pc + 2 ∧ s.OnlyRegsPc t) ∧
    (4096 ≤ s.i.toNat + x.val → ∃ t, exec (.loadRegs x) s = .next t ∧
      s.HaltedBy t .addressOutOfRange (some (encode (.loadRegs x))) (some (max s.i.toNat 0x1000)))

/-- R72, R60: two registers stored over the next instruction's bytes are the word the next fetch gives. -/
def Obligations.StoredBytesAreFetchedNext : Prop :=
  ∀ (x : Reg) (s t : State), 1 ≤ x.val → s.i = s.pc + 2 → s.i.toNat + x.val < 4096 → exec (.storeRegs x) s = .next t →
    ∃ w, t.fetch = .ok w ∧ w.toNat = (s.reg 0).toNat * 256 + (s.reg 1).toNat

/-! ### Keypad and timers (44_keypad_timers.md) -/

/-- R209, R210, R211: SKP skips when the key whose code is V[x] is down, SKNP when it is not; no key has a code above 0xF. -/
def Obligations.SkipsOnKey : Prop :=
  ∀ (x : Reg) (s : State), (Instr.skp x).HasWord (0xE09E + x.val * 0x100) ∧ (Instr.sknp x).HasWord (0xE0A1 + x.val * 0x100) ∧
    (∃ t, exec (.skp x) s = .next t ∧ s.OnlyPc t ∧
      ((s.reg x).toNat ≤ 0xF ∧ s.sample.keysDown.getLsbD (s.reg x).toNat = true → t.pc = s.pc + 4) ∧
      (0xF < (s.reg x).toNat ∨ s.sample.keysDown.getLsbD (s.reg x).toNat = false → t.pc = s.pc + 2)) ∧
    (∃ t, exec (.sknp x) s = .next t ∧ s.OnlyPc t ∧
      ((s.reg x).toNat ≤ 0xF ∧ s.sample.keysDown.getLsbD (s.reg x).toNat = true → t.pc = s.pc + 2) ∧
      (0xF < (s.reg x).toNat ∨ s.sample.keysDown.getLsbD (s.reg x).toNat = false → t.pc = s.pc + 4))

/-- R212: without a key event LD Vx,K changes nothing, not even PC; with event k it loads k and goes on. -/
def Obligations.KeyWaitReissues : Prop :=
  ∀ (x : Reg) (s : State), (Instr.ldVxK x).HasWord (0xF00A + x.val * 0x100) ∧
    (s.sample.keyEvent = none → exec (.ldVxK x) s = .next s) ∧
    ∀ k, s.sample.keyEvent = some k →
      ∃ t, exec (.ldVxK x) s = .next t ∧ (t.reg x).toNat = k.val ∧ t.pc = s.pc + 2 ∧ s.OnlyRegPc t x

/-- R40, R212: with a coherent keypad sample, LD Vx,K goes on exactly when some key is down, and then loads the code of a key that is
down. -/
def Obligations.KeyWaitEndsWithKeyDown : Prop :=
  ∀ (x : Reg) (s t : State), s.sample.Coherent → exec (.ldVxK x) s = .next t →
    (t.pc = s.pc + 2 ↔ s.sample.keysDown ≠ 0) ∧
      (s.sample.keysDown ≠ 0 → (t.reg x).toNat ≤ 0xF ∧ s.sample.keysDown.getLsbD (t.reg x).toNat = true)

/-- R213, R214, R215: the timer transfers; sound_active follows ST at once. -/
def Obligations.TimerTransfers : Prop :=
  ∀ (x : Reg) (s : State),
    (Instr.ldVxDt x).HasWord (0xF007 + x.val * 0x100) ∧ (Instr.ldDtVx x).HasWord (0xF015 + x.val * 0x100) ∧
    (Instr.ldStVx x).HasWord (0xF018 + x.val * 0x100) ∧
    (∃ t, exec (.ldVxDt x) s = .next t ∧ t.reg x = s.dt ∧ t.pc = s.pc + 2 ∧ s.OnlyRegPc t x) ∧
    (∃ t, exec (.ldDtVx x) s = .next t ∧ t.dt = s.reg x ∧ t.st = s.st ∧ t.pc = s.pc + 2 ∧ s.SameRegs t ∧ t.i = s.i ∧ s.SameStack t ∧
      s.SameMem t ∧ s.SameDisp t ∧ s.SameBase t) ∧
    (∃ t, exec (.ldStVx x) s = .next t ∧ t.st = s.reg x ∧ (t.soundActive = true ↔ 0 < (s.reg x).toNat) ∧ t.dt = s.dt ∧
      t.pc = s.pc + 2 ∧ s.SameRegs t ∧ t.i = s.i ∧ s.SameStack t ∧ s.SameMem t ∧ s.SameDisp t ∧ s.SameBase t)
end

