-- ==== Sys2Proof/Laws/Decode.lean ====
section
/-! SUPPORT. The fields of a packed word, format by format (spec/30_encoding.md R91): what the decoder reads back from what the encoder packs. -/

namespace Sys2Proof

theorem packNNN_toNat {op : Nat} (hop : op < 16) (nnn : Addr12) : (packNNN op nnn).toNat = op * 0x1000 + nnn.toNat := by
  have := nnn.isLt
  rw [packNNN, BitVec.toNat_ofNat, Nat.mod_eq_of_lt (by omega)]

theorem packXNN_toNat {op : Nat} (hop : op < 16) (x : Reg) (nn : Byte) :
    (packXNN op x nn).toNat = op * 0x1000 + x.val * 0x100 + nn.toNat := by
  have := nn.isLt
  have := x.isLt
  rw [packXNN, BitVec.toNat_ofNat, Nat.mod_eq_of_lt (by omega)]

theorem packXYN_toNat {op : Nat} (hop : op < 16) (x y : Reg) (n : Nibble) :
    (packXYN op x y n).toNat = op * 0x1000 + x.val * 0x100 + y.val * 0x10 + n.toNat := by
  have := n.isLt
  have := x.isLt
  have := y.isLt
  rw [packXYN, BitVec.toNat_ofNat, Nat.mod_eq_of_lt (by omega)]

/-! ### Format NNN -/

theorem opField_packNNN {op : Nat} (hop : op < 16) (nnn : Addr12) : opField (packNNN op nnn) = op := by
  have := nnn.isLt
  rw [opField, bits, packNNN_toNat hop]
  omega

theorem nnnField_packNNN {op : Nat} (hop : op < 16) (nnn : Addr12) : nnnField (packNNN op nnn) = nnn := by
  have := nnn.isLt
  apply BitVec.eq_of_toNat_eq
  rw [nnnField, bits, packNNN_toNat hop, BitVec.toNat_ofNat]
  omega

/-! ### Formats XNN and X -/

theorem opField_packXNN {op : Nat} (hop : op < 16) (x : Reg) (nn : Byte) : opField (packXNN op x nn) = op := by
  have := nn.isLt
  have := x.isLt
  rw [opField, bits, packXNN_toNat hop]
  omega

theorem xField_packXNN {op : Nat} (hop : op < 16) (x : Reg) (nn : Byte) : xField (packXNN op x nn) = x := by
  have := nn.isLt
  have := x.isLt
  apply Fin.ext
  rw [xField, bits, packXNN_toNat hop, Fin.val_ofNat]
  omega

theorem nnBits_packXNN {op : Nat} (hop : op < 16) (x : Reg) (nn : Byte) : bits (packXNN op x nn) 7 0 = nn.toNat := by
  have := nn.isLt
  have := x.isLt
  rw [bits, packXNN_toNat hop]
  omega

theorem nnField_packXNN {op : Nat} (hop : op < 16) (x : Reg) (nn : Byte) : nnField (packXNN op x nn) = nn := by
  rw [nnField, nnBits_packXNN hop, BitVec.ofNat_toNat, BitVec.setWidth_eq]

/-! ### Formats XY and XYN -/

theorem opField_packXYN {op : Nat} (hop : op < 16) (x y : Reg) (n : Nibble) : opField (packXYN op x y n) = op := by
  have := n.isLt
  have := x.isLt
  have := y.isLt
  rw [opField, bits, packXYN_toNat hop]
  omega

theorem xField_packXYN {op : Nat} (hop : op < 16) (x y : Reg) (n : Nibble) : xField (packXYN op x y n) = x := by
  have := n.isLt
  have := x.isLt
  have := y.isLt
  apply Fin.ext
  rw [xField, bits, packXYN_toNat hop, Fin.val_ofNat]
  omega

theorem yField_packXYN {op : Nat} (hop : op < 16) (x y : Reg) (n : Nibble) : yField (packXYN op x y n) = y := by
  have := n.isLt
  have := x.isLt
  have := y.isLt
  apply Fin.ext
  rw [yField, bits, packXYN_toNat hop, Fin.val_ofNat]
  omega

theorem nBits_packXYN {op : Nat} (hop : op < 16) (x y : Reg) (n : Nibble) : bits (packXYN op x y n) 3 0 = n.toNat := by
  have := n.isLt
  have := x.isLt
  have := y.isLt
  rw [bits, packXYN_toNat hop]
  omega

theorem nField_packXYN {op : Nat} (hop : op < 16) (x y : Reg) (n : Nibble) : nField (packXYN op x y n) = n := by
  rw [nField, nBits_packXYN hop, BitVec.ofNat_toNat, BitVec.setWidth_eq]

/-! ### Bytes in memory order (R60) -/

theorem combineBytes_split (w : Word) : combineBytes (highByte w) (lowByte w) = w := by
  have := w.isLt
  apply BitVec.eq_of_toNat_eq
  simp only [combineBytes, highByte, lowByte, bits, BitVec.toNat_ofNat]
  omega

/-! ### Masks of the opcode map (R97) -/

theorem and_opMask (w : Word) : w &&& 0xF000#16 = (w >>> 12) <<< 12 := by
  apply BitVec.eq_of_getLsbD_eq
  intro k hk
  have h : (0xF000#16).getLsbD k = decide (12 ≤ k) := by
    interval_cases k <;> rfl
  rw [BitVec.getLsbD_and, h, BitVec.getLsbD_shiftLeft, BitVec.getLsbD_ushiftRight]
  by_cases h12 : 12 ≤ k
  · simp [h12, hk, Nat.not_lt.mpr h12]
  · simp [h12, Nat.not_le.mp h12]

/-- A word masked to its opcode is the opcode's word. -/
theorem and_opMask_eq {w : Word} {op : Nat} (h : opField w = op) : w &&& 0xF000#16 = BitVec.ofNat 16 (op * 0x1000) := by
  have := w.isLt
  rw [and_opMask]
  apply BitVec.eq_of_toNat_eq
  rw [BitVec.toNat_shiftLeft, BitVec.toNat_ushiftRight, BitVec.toNat_ofNat, Nat.shiftRight_eq_div_pow, Nat.shiftLeft_eq, ← h,
    opField, bits]
  omega

/-- A word masked to its low k bits is their value. -/
theorem and_lowMask_eq {w : Word} {k n : Nat} (hk : k ≤ 16) (h : w.toNat % 2 ^ k = n) :
    w &&& BitVec.ofNat 16 (2 ^ k - 1) = BitVec.ofNat 16 n := by
  have hle : 2 ^ k ≤ 2 ^ 16 := Nat.pow_le_pow_right (by decide) hk
  have hpos : 0 < 2 ^ k := Nat.two_pow_pos k
  apply BitVec.eq_of_toNat_eq
  rw [BitVec.toNat_and, BitVec.toNat_ofNat, BitVec.toNat_ofNat, Nat.mod_eq_of_lt (by omega : 2 ^ k - 1 < 2 ^ 16),
    Nat.and_two_pow_sub_one_eq_mod, h, Nat.mod_eq_of_lt]
  rw [← h]
  exact Nat.lt_of_lt_of_le (Nat.mod_lt _ hpos) hle

/-- A word masked to its opcode and its low nibble. -/
theorem and_mask8_eq {w : Word} {op n : Nat} (hop : opField w = op) (hn : bits w 3 0 = n) :
    w &&& 0xF00F#16 = BitVec.ofNat 16 (op * 0x1000) ||| BitVec.ofNat 16 n := by
  have hl : w &&& 0x000F#16 = BitVec.ofNat 16 n := and_lowMask_eq (k := 4) (by decide) (by rw [← hn, bits]; omega)
  rw [← and_opMask_eq hop, ← hl, ← BitVec.and_or_distrib_left]
  rfl

/-- A word masked to its opcode and its low byte. -/
theorem and_maskEF_eq {w : Word} {op n : Nat} (hop : opField w = op) (hn : bits w 7 0 = n) :
    w &&& 0xF0FF#16 = BitVec.ofNat 16 (op * 0x1000) ||| BitVec.ofNat 16 n := by
  have hl : w &&& 0x00FF#16 = BitVec.ofNat 16 n := and_lowMask_eq (k := 8) (by decide) (by rw [← hn, bits]; omega)
  rw [← and_opMask_eq hop, ← hl, ← BitVec.and_or_distrib_left]
  rfl

end Sys2Proof
end

