-- ==== Sys2Proof/Laws/Display.lean ====
section
/-! SUPPORT. The display buffer: a sprite drawn is the list of pixels its 1 bits fall on, each flipped once (spec/40_display.md R122). -/

namespace Sys2Proof.Machine

theorem Display.pixel_flip (d : Display) (r r' : Fin 32) (c c' : Fin 64) :
    (d.flip r c).pixel r' c' = if r' = r ∧ c' = c then !d.pixel r c else d.pixel r' c' := by
  by_cases hr : r' = r
  · subst hr
    by_cases hc : c' = c
    · subst hc
      simp [Display.pixel, Display.flip]
    · have : c.val ≠ c'.val := fun h => hc (Fin.ext h.symm)
      simp [Display.pixel, Display.flip, hc, this]
  · have : r.val ≠ r'.val := fun h => hr (Fin.ext h.symm)
    simp [Display.pixel, Display.flip, hr, this]

theorem Display.pixel_clear (r : Fin 32) (c : Fin 64) : Display.clear.pixel r c = false := by
  simp [Display.pixel, Display.clear]

/-- Two buffers with the same pixels are the same buffer. -/
theorem Display.ext_pixel {d e : Display} (h : ∀ r c, d.pixel r c = e.pixel r c) : d = e := by
  refine Vector.ext fun r hr => Vector.ext fun c hc => ?_
  exact h ⟨r, hr⟩ ⟨c, hc⟩

/-! ### A list of pixels, each flipped once -/

/-- The pixels of a list flipped one after the other, with the collision flag. -/
def flipAll : List (Fin 32 × Fin 64) → Display × Bool → Display × Bool
  | [], acc => acc
  | t :: ts, acc => flipAll ts (acc.1.flip t.1 t.2, acc.2 || acc.1.pixel t.1 t.2)

theorem flipAll_append (ts us : List (Fin 32 × Fin 64)) (acc : Display × Bool) :
    flipAll (ts ++ us) acc = flipAll us (flipAll ts acc) := by
  induction ts generalizing acc with
  | nil => rfl
  | cons t ts ih => exact ih _

/-- Without repeats, the pixels of the list are inverted and no others change. -/
theorem pixel_flipAll {ts : List (Fin 32 × Fin 64)} (hn : ts.Nodup) (acc : Display × Bool) (r : Fin 32) (c : Fin 64) :
    (flipAll ts acc).1.pixel r c = (acc.1.pixel r c ^^ decide ((r, c) ∈ ts)) := by
  induction ts generalizing acc with
  | nil => simp [flipAll]
  | cons t ts ih =>
    rw [List.nodup_cons] at hn
    rw [flipAll, ih hn.2, Display.pixel_flip]
    by_cases ht : (r, c) = t
    · subst ht
      simp [hn.1]
    · have : ¬(r = t.1 ∧ c = t.2) := fun h => ht (Prod.ext h.1 h.2)
      simp [ht, this]

/-- Without repeats, the flag is raised exactly by a pixel of the list that was set before. -/
theorem flag_flipAll {ts : List (Fin 32 × Fin 64)} (hn : ts.Nodup) (acc : Display × Bool) :
    (flipAll ts acc).2 = (acc.2 || ts.any fun t => acc.1.pixel t.1 t.2) := by
  induction ts generalizing acc with
  | nil => simp [flipAll]
  | cons t ts ih =>
    rw [List.nodup_cons] at hn
    rw [flipAll, ih hn.2]
    have h : (ts.any fun u => (acc.1.flip t.1 t.2).pixel u.1 u.2) = ts.any fun u => acc.1.pixel u.1 u.2 := by
      rw [Bool.eq_iff_iff, List.any_eq_true, List.any_eq_true]
      refine exists_congr fun u => and_congr_right fun hu => ?_
      have : ¬(u.1 = t.1 ∧ u.2 = t.2) := fun h => hn.1 (Prod.ext h.1 h.2 ▸ hu)
      rw [Display.pixel_flip, if_neg this]
    rw [h, List.any_cons, Bool.or_assoc]

/-! ### The pixels of a sprite -/

/-- Where bit c of sprite row r falls. -/
def target (x0 y0 r c : Nat) : Fin 32 × Fin 64 := (Fin.ofNat 32 (y0 + r), Fin.ofNat 64 (x0 + c))

/-- The pixels the 1 bits of one sprite row fall on. -/
def rowTargets (x0 y0 r : Nat) (row : Byte) : List (Fin 32 × Fin 64) :=
  ([0, 1, 2, 3, 4, 5, 6, 7].filter (spriteBit row)).map (target x0 y0 r)

/-- The pixels the 1 bits of the rows from r on fall on. -/
def rowsTargets (x0 y0 : Nat) : Nat → List Byte → List (Fin 32 × Fin 64)
  | _, [] => []
  | r, row :: rows => rowTargets x0 y0 r row ++ rowsTargets x0 y0 (r + 1) rows

theorem foldl_plotBit (x0 y0 r : Nat) (row : Byte) (cs : List Nat) (acc : Display × Bool) :
    cs.foldl (fun a c => plotBit x0 y0 r c (spriteBit row c) a) acc =
      flipAll ((cs.filter (spriteBit row)).map (target x0 y0 r)) acc := by
  induction cs generalizing acc with
  | nil => rfl
  | cons c cs ih =>
    rw [List.foldl_cons, ih]
    by_cases hb : spriteBit row c = true
    · rw [List.filter_cons_of_pos hb, hb, plotBit, if_pos rfl]
      rfl
    · rw [List.filter_cons_of_neg hb, plotBit, if_neg hb]

/-- Drawing is flipping the sprite's pixels. -/
theorem drawSprite_eq_flipAll (d : Display) (x0 y0 : Nat) (rows : List Byte) :
    d.drawSprite x0 y0 rows = flipAll (rowsTargets x0 y0 0 rows) (d, false) := by
  suffices h : ∀ r acc, plotRows x0 y0 r rows acc = flipAll (rowsTargets x0 y0 r rows) acc from h 0 (d, false)
  induction rows with
  | nil => exact fun r acc => rfl
  | cons row rows ih =>
    intro r acc
    rw [plotRows, ih, plotRow, foldl_plotBit, rowsTargets, flipAll_append]
    rfl

theorem mem_rowTargets {x0 y0 r : Nat} {row : Byte} {t : Fin 32 × Fin 64} :
    t ∈ rowTargets x0 y0 r row ↔ ∃ c, c < 8 ∧ spriteBit row c = true ∧ t = target x0 y0 r c := by
  simp only [rowTargets, List.mem_map, List.mem_filter]
  constructor
  · rintro ⟨c, ⟨hc, hb⟩, rfl⟩
    have : c < 8 := by
      simp only [List.mem_cons, List.not_mem_nil, or_false] at hc
      omega
    exact ⟨c, this, hb, rfl⟩
  · rintro ⟨c, hc, hb, rfl⟩
    refine ⟨c, ⟨?_, hb⟩, rfl⟩
    simp only [List.mem_cons, List.not_mem_nil, or_false]
    omega

/-- A pixel is one of the sprite's when it lies under a 1 bit of a row. -/
theorem mem_rowsTargets {x0 y0 r0 : Nat} {rows : List Byte} {t : Fin 32 × Fin 64} :
    t ∈ rowsTargets x0 y0 r0 rows ↔
      ∃ (k : Nat) (h : k < rows.length) (c : Nat), c < 8 ∧ spriteBit rows[k] c = true ∧ t = target x0 y0 (r0 + k) c := by
  induction rows generalizing r0 with
  | nil => simp [rowsTargets]
  | cons row rows ih =>
    rw [rowsTargets, List.mem_append, mem_rowTargets, ih]
    constructor
    · rintro (⟨c, hc, hb, rfl⟩ | ⟨k, hk, c, hc, hb, rfl⟩)
      · exact ⟨0, by simp, c, hc, hb, rfl⟩
      · exact ⟨k + 1, by simpa using hk, c, hc, by simpa using hb, by rw [Nat.add_assoc, Nat.add_comm 1 k]⟩
    · rintro ⟨k, hk, c, hc, hb, rfl⟩
      cases k with
      | zero => exact .inl ⟨c, hc, hb, rfl⟩
      | succ k =>
        exact .inr ⟨k, by simpa using hk, c, hc, by simpa using hb, by rw [Nat.add_assoc, Nat.add_comm 1 k]⟩

theorem target_inj {x0 y0 r r' c c' : Nat} (hr : r < r' + 32) (hr' : r' < r + 32) (hc : c < 8) (hc' : c' < 8)
    (h : target x0 y0 r c = target x0 y0 r' c') : r = r' ∧ c = c' := by
  simp only [target, Prod.mk.injEq, Fin.ext_iff, Fin.val_ofNat] at h
  omega

theorem nodup_rowTargets (x0 y0 r : Nat) (row : Byte) : (rowTargets x0 y0 r row).Nodup := by
  have hbase : ([0, 1, 2, 3, 4, 5, 6, 7].filter (spriteBit row)).Nodup := List.Nodup.filter _ (by decide)
  refine List.Nodup.map_on (fun c hc c' hc' h => ?_) hbase
  have h1 : c < 8 := by
    have := (List.mem_filter.mp hc).1
    simp only [List.mem_cons, List.not_mem_nil, or_false] at this
    omega
  have h2 : c' < 8 := by
    have := (List.mem_filter.mp hc').1
    simp only [List.mem_cons, List.not_mem_nil, or_false] at this
    omega
  exact (target_inj (by omega) (by omega) h1 h2 h).2

/-- No two bits of a sprite of at most 32 rows land on the same pixel (R122). -/
theorem nodup_rowsTargets (x0 y0 r0 : Nat) (rows : List Byte) (hlen : rows.length ≤ 32) :
    (rowsTargets x0 y0 r0 rows).Nodup := by
  induction rows generalizing r0 with
  | nil => exact List.nodup_nil
  | cons row rows ih =>
    simp only [List.length_cons] at hlen
    rw [rowsTargets, List.nodup_append]
    refine ⟨nodup_rowTargets x0 y0 r0 row, ih _ (by omega), ?_⟩
    rintro t ht u hu rfl
    obtain ⟨c, hc, -, rfl⟩ := mem_rowTargets.mp ht
    obtain ⟨k, hk, c', hc', -, h⟩ := mem_rowsTargets.mp hu
    have := (target_inj (by omega) (by omega) hc hc' h).1
    omega

/-- The display after a draw, pixel by pixel: inverted under the sprite's 1 bits, unchanged elsewhere (R122). -/
theorem pixel_drawSprite (d : Display) (x0 y0 : Nat) (rows : List Byte) (hlen : rows.length ≤ 32) (r : Fin 32) (c : Fin 64) :
    (d.drawSprite x0 y0 rows).1.pixel r c = (d.pixel r c ^^ decide ((r, c) ∈ rowsTargets x0 y0 0 rows)) := by
  rw [drawSprite_eq_flipAll, pixel_flipAll (nodup_rowsTargets x0 y0 0 rows hlen)]

/-- The collision result: some pixel under a 1 bit of the sprite was set (R122). -/
theorem flag_drawSprite (d : Display) (x0 y0 : Nat) (rows : List Byte) (hlen : rows.length ≤ 32) :
    (d.drawSprite x0 y0 rows).2 = (rowsTargets x0 y0 0 rows).any fun t => d.pixel t.1 t.2 := by
  rw [drawSprite_eq_flipAll, flag_flipAll (nodup_rowsTargets x0 y0 0 rows hlen), Bool.false_or]

end Sys2Proof.Machine
end

