-- ==== Sys2Proof/Laws/Memory.lean ====
section
/-! SUPPORT. Memory: a read after a write, the bytes a write leaves alone, and the canonical form (spec/20_memory.md R66, R69). -/

namespace Sys2Proof.Machine

variable {p : MemParams} {m : Memory}

/-! ### The background (D2) -/

/-- Without exceptions the background is one byte value. -/
@[simp] theorem Memory.background_uniform (font : Vector Byte 80) (b : Byte) (a : Nat) :
    MemParams.background { font := font, fill := b, exceptions := [] } a = b := rfl

/-- Every function from the memory's addresses to bytes is the background of some parameters. -/
theorem Memory.exists_background (f : Nat → Byte) : ∃ p : MemParams, ∀ a, a < 4096 → p.background a = f a := by
  refine ⟨{ font := defaultFont, fill := 0, exceptions := (List.range 4096).map fun k => (k, f k) }, fun a ha => ?_⟩
  suffices h : ∀ ks : List Nat, a ∈ ks → (ks.map fun k => (k, f k)).lookup a = some (f a) by
    rw [MemParams.background, h _ (List.mem_range.mpr ha), Option.getD_some]
  intro ks hks
  induction ks with
  | nil => cases hks
  | cons k ks ih =>
    rw [List.map_cons, List.lookup_cons]
    by_cases hk : a = k
    · subst hk
      simp
    · rw [beq_false_of_ne hk]
      exact ih ((List.mem_cons.mp hks).resolve_left hk)

/-! ### Reading after a change of one cell -/

theorem Memory.readByte_erase (a b : Nat) :
    (Memory.erase m a).readByte p b = if b = a then p.byteAt b else m.readByte p b := by
  induction m with
  | nil => simp [Memory.erase, Memory.readByte]
  | cons c m ih =>
    by_cases hc : c.1 = a
    · rw [Memory.erase, if_pos hc, ih, Memory.readByte]
      by_cases hb : b = a
      · rw [if_pos hb, if_pos hb]
      · rw [if_neg hb, if_neg hb, if_neg (fun h => hb (h.symm.trans hc))]
    · rw [Memory.erase, if_neg hc, Memory.readByte, Memory.readByte, ih]
      by_cases hcb : c.1 = b
      · rw [if_pos hcb, if_pos hcb, if_neg (fun h => hc (hcb.trans h))]
      · rw [if_neg hcb, if_neg hcb]

theorem Memory.readByte_insert (a b : Nat) (u : Byte) :
    (Memory.insert m a u).readByte p b = if b = a then u else m.readByte p b := by
  induction m with
  | nil => simp only [Memory.insert, Memory.readByte, eq_comm]
  | cons c m ih =>
    rw [Memory.insert]
    split
    · rw [Memory.readByte]
      simp only [eq_comm]
    · split
      · rename_i hac
        rw [Memory.readByte, Memory.readByte, ← hac]
        simp only [eq_comm (a := a)]
        split <;> rfl
      · rename_i hac
        rw [Memory.readByte, Memory.readByte, ih]
        by_cases hcb : c.1 = b
        · rw [if_pos hcb, if_pos hcb, if_neg (fun h => hac (h.symm.trans hcb.symm))]
        · rw [if_neg hcb, if_neg hcb]

/-- A read after a write of one byte: the byte written there, the byte before everywhere else. -/
theorem Memory.readByte_writeByte (a b : Nat) (u : Byte) :
    (Memory.writeByte p m a u).readByte p b = if b = a then u else m.readByte p b := by
  simp only [Memory.writeByte]
  split
  · rw [Memory.readByte_erase]
    split <;> simp_all
  · exact Memory.readByte_insert a b u

/-! ### Reading after a block -/

/-- A read after a block of bytes: byte k of the block at a + k, the byte before outside. -/
theorem Memory.readByte_writeBlock (bs : List Byte) (m : Memory) (a b : Nat) :
    (Memory.writeBlock p m a bs).readByte p b =
      if h : a ≤ b ∧ b < a + bs.length then bs[b - a] else m.readByte p b := by
  induction bs generalizing m a with
  | nil =>
    have : ¬(a ≤ b ∧ b < a + 0) := by omega
    simp [Memory.writeBlock]
  | cons u bs ih =>
    rw [Memory.writeBlock, ih]
    by_cases hba : b = a
    · subst hba
      simp [Memory.readByte_writeByte]
    · by_cases hin : a + 1 ≤ b ∧ b < a + 1 + bs.length
      · have h2 : a ≤ b ∧ b < a + (u :: bs).length := by simp only [List.length_cons]; omega
        rw [dif_pos hin, dif_pos h2]
        have h3 : b - a = (b - (a + 1)) + 1 := by omega
        simp only [h3, List.getElem_cons_succ]
      · have h2 : ¬(a ≤ b ∧ b < a + (u :: bs).length) := by simp only [List.length_cons]; omega
        rw [dif_neg hin, dif_neg h2, Memory.readByte_writeByte, if_neg hba]

/-- A block leaves every address outside it alone. -/
theorem Memory.readByte_writeBlock_outside (bs : List Byte) (m : Memory) (a b : Nat) (h : ¬(a ≤ b ∧ b < a + bs.length)) :
    (Memory.writeBlock p m a bs).readByte p b = m.readByte p b := by
  rw [Memory.readByte_writeBlock, dif_neg h]

/-! ### The canonical form -/

/-- Memory with nothing listed, as after reset, is in canonical form. -/
theorem Memory.wf_nil : Memory.wf p [] := by simp [Memory.wf]

theorem Memory.mem_erase {a : Nat} {c : Host.Cell} (h : c ∈ Memory.erase m a) : c ∈ m ∧ c.1 ≠ a := by
  induction m with
  | nil => simp [Memory.erase] at h
  | cons d m ih =>
    simp only [Memory.erase] at h
    split at h
    · exact ⟨List.mem_cons_of_mem _ (ih h).1, (ih h).2⟩
    · rcases List.mem_cons.mp h with rfl | h
      · exact ⟨List.mem_cons_self, ‹_›⟩
      · exact ⟨List.mem_cons_of_mem _ (ih h).1, (ih h).2⟩

theorem Memory.wf_erase (h : m.wf p) (a : Nat) : (Memory.erase m a).wf p := by
  refine ⟨?_, fun c hc => h.2 c (Memory.mem_erase hc).1⟩
  have hp := h.1
  clear h
  induction m with
  | nil => simp [Memory.erase]
  | cons d m ih =>
    simp only [Memory.erase]
    rw [List.pairwise_cons] at hp
    split
    · exact ih hp.2
    · exact List.pairwise_cons.mpr ⟨fun c hc => hp.1 c (Memory.mem_erase hc).1, ih hp.2⟩

theorem Memory.mem_insert {a : Nat} {u : Byte} {c : Host.Cell} (h : c ∈ Memory.insert m a u) : c = (a, u) ∨ c ∈ m := by
  induction m with
  | nil => simpa [Memory.insert] using h
  | cons d m ih =>
    simp only [Memory.insert] at h
    split at h
    · simpa using h
    · split at h
      · rcases List.mem_cons.mp h with rfl | h
        · exact .inl rfl
        · exact .inr (List.mem_cons_of_mem _ h)
      · rcases List.mem_cons.mp h with rfl | h
        · exact .inr List.mem_cons_self
        · exact (ih h).imp_right (List.mem_cons_of_mem _)

theorem Memory.wf_insert (h : m.wf p) {a : Nat} (ha : a < 4096) {u : Byte} (hu : u ≠ p.byteAt a) :
    (Memory.insert m a u).wf p := by
  refine ⟨?_, fun c hc => ?_⟩
  · have hp := h.1
    clear h
    induction m with
    | nil => simp [Memory.insert]
    | cons d m ih =>
      rw [List.pairwise_cons] at hp
      simp only [Memory.insert]
      split
      · rename_i had
        refine List.pairwise_cons.mpr ⟨fun c hc => ?_, List.pairwise_cons.mpr hp⟩
        rcases List.mem_cons.mp hc with rfl | hc
        · exact had
        · exact Nat.lt_trans had (hp.1 c hc)
      · split
        · rename_i had
          exact List.pairwise_cons.mpr ⟨fun c hc => had ▸ hp.1 c hc, hp.2⟩
        · refine List.pairwise_cons.mpr ⟨fun c hc => ?_, ih hp.2⟩
          rcases Memory.mem_insert hc with rfl | hc
          · show d.1 < a
            omega
          · exact hp.1 c hc
  · rcases Memory.mem_insert hc with rfl | hc
    · exact ⟨ha, hu⟩
    · exact h.2 c hc

/-- Writing a byte of the address space keeps the canonical form. -/
theorem Memory.wf_writeByte (h : m.wf p) {a : Nat} (ha : a < 4096) (u : Byte) : (Memory.writeByte p m a u).wf p := by
  simp only [Memory.writeByte]
  split
  · exact Memory.wf_erase h a
  · exact Memory.wf_insert h ha ‹_›

/-- Writing a block that lies in the address space keeps the canonical form. -/
theorem Memory.wf_writeBlock (bs : List Byte) {m : Memory} (h : m.wf p) {a : Nat} (ha : a + bs.length ≤ 4096) :
    (Memory.writeBlock p m a bs).wf p := by
  induction bs generalizing m a with
  | nil => exact h
  | cons u bs ih =>
    simp only [List.length_cons] at ha
    exact ih (Memory.wf_writeByte h (by omega) u) (by omega)

/-- Memory right after reset is in canonical form. -/
theorem Memory.wf_reset : State.reset.mem.wf State.reset.memParams := Memory.wf_nil

/-! ### The same laws, said of State -/

/-- A read after a store: byte k of the block at a + k, the byte before outside. -/
theorem State.readByte_writeBlock (s : State) (a : Nat) (bs : List Byte) (b : Nat) :
    (s.writeBlock a bs).readByte b = if h : a ≤ b ∧ b < a + bs.length then bs[b - a] else s.readByte b :=
  Memory.readByte_writeBlock bs s.mem a b

theorem State.length_readBlock (s : State) (a n : Nat) : (s.readBlock a n).length = n := by
  simp [State.readBlock]

theorem State.getElem_readBlock (s : State) (a n k : Nat) (h : k < (s.readBlock a n).length) :
    (s.readBlock a n)[k] = s.readByte (a + k) := by
  simp [State.readBlock]

end Sys2Proof.Machine
end

