-- ==== Sys2Proof/Laws/State.lean ====
section
/-! SUPPORT. One lemma per field of State per update: what the update leaves there. All hold by rfl, so that no proof unfolds a record update. -/

namespace Sys2Proof.Machine

/-! ### setReg -/

@[simp] theorem State.setReg_v (s : State) (x : Reg) (b : Byte) : (s.setReg x b).v = s.v.set x.val b x.isLt := rfl

@[simp] theorem State.setReg_i (s : State) (x : Reg) (b : Byte) : (s.setReg x b).i = s.i := rfl

@[simp] theorem State.setReg_pc (s : State) (x : Reg) (b : Byte) : (s.setReg x b).pc = s.pc := rfl

@[simp] theorem State.setReg_sp (s : State) (x : Reg) (b : Byte) : (s.setReg x b).sp = s.sp := rfl

@[simp] theorem State.setReg_stack (s : State) (x : Reg) (b : Byte) : (s.setReg x b).stack = s.stack := rfl

@[simp] theorem State.setReg_dt (s : State) (x : Reg) (b : Byte) : (s.setReg x b).dt = s.dt := rfl

@[simp] theorem State.setReg_st (s : State) (x : Reg) (b : Byte) : (s.setReg x b).st = s.st := rfl

@[simp] theorem State.setReg_memParams (s : State) (x : Reg) (b : Byte) : (s.setReg x b).memParams = s.memParams := rfl

@[simp] theorem State.setReg_mem (s : State) (x : Reg) (b : Byte) : (s.setReg x b).mem = s.mem := rfl

@[simp] theorem State.setReg_disp (s : State) (x : Reg) (b : Byte) : (s.setReg x b).disp = s.disp := rfl

@[simp] theorem State.setReg_romSize (s : State) (x : Reg) (b : Byte) : (s.setReg x b).romSize = s.romSize := rfl

@[simp] theorem State.setReg_warnTooLarge (s : State) (x : Reg) (b : Byte) : (s.setReg x b).warnTooLarge = s.warnTooLarge := rfl

@[simp] theorem State.setReg_status (s : State) (x : Reg) (b : Byte) : (s.setReg x b).status = s.status := rfl

@[simp] theorem State.setReg_diag (s : State) (x : Reg) (b : Byte) : (s.setReg x b).diag = s.diag := rfl

@[simp] theorem State.setReg_sample (s : State) (x : Reg) (b : Byte) : (s.setReg x b).sample = s.sample := rfl

@[simp] theorem State.setReg_script (s : State) (x : Reg) (b : Byte) : (s.setReg x b).script = s.script := rfl

@[simp] theorem State.setReg_clock (s : State) (x : Reg) (b : Byte) : (s.setReg x b).clock = s.clock := rfl

/-! ### setI -/

@[simp] theorem State.setI_v (s : State) (w : Word) : (s.setI w).v = s.v := rfl

@[simp] theorem State.setI_i (s : State) (w : Word) : (s.setI w).i = w := rfl

@[simp] theorem State.setI_pc (s : State) (w : Word) : (s.setI w).pc = s.pc := rfl

@[simp] theorem State.setI_sp (s : State) (w : Word) : (s.setI w).sp = s.sp := rfl

@[simp] theorem State.setI_stack (s : State) (w : Word) : (s.setI w).stack = s.stack := rfl

@[simp] theorem State.setI_dt (s : State) (w : Word) : (s.setI w).dt = s.dt := rfl

@[simp] theorem State.setI_st (s : State) (w : Word) : (s.setI w).st = s.st := rfl

@[simp] theorem State.setI_memParams (s : State) (w : Word) : (s.setI w).memParams = s.memParams := rfl

@[simp] theorem State.setI_mem (s : State) (w : Word) : (s.setI w).mem = s.mem := rfl

@[simp] theorem State.setI_disp (s : State) (w : Word) : (s.setI w).disp = s.disp := rfl

@[simp] theorem State.setI_romSize (s : State) (w : Word) : (s.setI w).romSize = s.romSize := rfl

@[simp] theorem State.setI_warnTooLarge (s : State) (w : Word) : (s.setI w).warnTooLarge = s.warnTooLarge := rfl

@[simp] theorem State.setI_status (s : State) (w : Word) : (s.setI w).status = s.status := rfl

@[simp] theorem State.setI_diag (s : State) (w : Word) : (s.setI w).diag = s.diag := rfl

@[simp] theorem State.setI_sample (s : State) (w : Word) : (s.setI w).sample = s.sample := rfl

@[simp] theorem State.setI_script (s : State) (w : Word) : (s.setI w).script = s.script := rfl

@[simp] theorem State.setI_clock (s : State) (w : Word) : (s.setI w).clock = s.clock := rfl

/-! ### setDt -/

@[simp] theorem State.setDt_v (s : State) (b : Byte) : (s.setDt b).v = s.v := rfl

@[simp] theorem State.setDt_i (s : State) (b : Byte) : (s.setDt b).i = s.i := rfl

@[simp] theorem State.setDt_pc (s : State) (b : Byte) : (s.setDt b).pc = s.pc := rfl

@[simp] theorem State.setDt_sp (s : State) (b : Byte) : (s.setDt b).sp = s.sp := rfl

@[simp] theorem State.setDt_stack (s : State) (b : Byte) : (s.setDt b).stack = s.stack := rfl

@[simp] theorem State.setDt_dt (s : State) (b : Byte) : (s.setDt b).dt = b := rfl

@[simp] theorem State.setDt_st (s : State) (b : Byte) : (s.setDt b).st = s.st := rfl

@[simp] theorem State.setDt_memParams (s : State) (b : Byte) : (s.setDt b).memParams = s.memParams := rfl

@[simp] theorem State.setDt_mem (s : State) (b : Byte) : (s.setDt b).mem = s.mem := rfl

@[simp] theorem State.setDt_disp (s : State) (b : Byte) : (s.setDt b).disp = s.disp := rfl

@[simp] theorem State.setDt_romSize (s : State) (b : Byte) : (s.setDt b).romSize = s.romSize := rfl

@[simp] theorem State.setDt_warnTooLarge (s : State) (b : Byte) : (s.setDt b).warnTooLarge = s.warnTooLarge := rfl

@[simp] theorem State.setDt_status (s : State) (b : Byte) : (s.setDt b).status = s.status := rfl

@[simp] theorem State.setDt_diag (s : State) (b : Byte) : (s.setDt b).diag = s.diag := rfl

@[simp] theorem State.setDt_sample (s : State) (b : Byte) : (s.setDt b).sample = s.sample := rfl

@[simp] theorem State.setDt_script (s : State) (b : Byte) : (s.setDt b).script = s.script := rfl

@[simp] theorem State.setDt_clock (s : State) (b : Byte) : (s.setDt b).clock = s.clock := rfl

/-! ### setSt -/

@[simp] theorem State.setSt_v (s : State) (b : Byte) : (s.setSt b).v = s.v := rfl

@[simp] theorem State.setSt_i (s : State) (b : Byte) : (s.setSt b).i = s.i := rfl

@[simp] theorem State.setSt_pc (s : State) (b : Byte) : (s.setSt b).pc = s.pc := rfl

@[simp] theorem State.setSt_sp (s : State) (b : Byte) : (s.setSt b).sp = s.sp := rfl

@[simp] theorem State.setSt_stack (s : State) (b : Byte) : (s.setSt b).stack = s.stack := rfl

@[simp] theorem State.setSt_dt (s : State) (b : Byte) : (s.setSt b).dt = s.dt := rfl

@[simp] theorem State.setSt_st (s : State) (b : Byte) : (s.setSt b).st = b := rfl

@[simp] theorem State.setSt_memParams (s : State) (b : Byte) : (s.setSt b).memParams = s.memParams := rfl

@[simp] theorem State.setSt_mem (s : State) (b : Byte) : (s.setSt b).mem = s.mem := rfl

@[simp] theorem State.setSt_disp (s : State) (b : Byte) : (s.setSt b).disp = s.disp := rfl

@[simp] theorem State.setSt_romSize (s : State) (b : Byte) : (s.setSt b).romSize = s.romSize := rfl

@[simp] theorem State.setSt_warnTooLarge (s : State) (b : Byte) : (s.setSt b).warnTooLarge = s.warnTooLarge := rfl

@[simp] theorem State.setSt_status (s : State) (b : Byte) : (s.setSt b).status = s.status := rfl

@[simp] theorem State.setSt_diag (s : State) (b : Byte) : (s.setSt b).diag = s.diag := rfl

@[simp] theorem State.setSt_sample (s : State) (b : Byte) : (s.setSt b).sample = s.sample := rfl

@[simp] theorem State.setSt_script (s : State) (b : Byte) : (s.setSt b).script = s.script := rfl

@[simp] theorem State.setSt_clock (s : State) (b : Byte) : (s.setSt b).clock = s.clock := rfl

/-! ### setPc -/

@[simp] theorem State.setPc_v (s : State) (npc : Word) : (s.setPc npc).v = s.v := rfl

@[simp] theorem State.setPc_i (s : State) (npc : Word) : (s.setPc npc).i = s.i := rfl

@[simp] theorem State.setPc_pc (s : State) (npc : Word) : (s.setPc npc).pc = npc := rfl

@[simp] theorem State.setPc_sp (s : State) (npc : Word) : (s.setPc npc).sp = s.sp := rfl

@[simp] theorem State.setPc_stack (s : State) (npc : Word) : (s.setPc npc).stack = s.stack := rfl

@[simp] theorem State.setPc_dt (s : State) (npc : Word) : (s.setPc npc).dt = s.dt := rfl

@[simp] theorem State.setPc_st (s : State) (npc : Word) : (s.setPc npc).st = s.st := rfl

@[simp] theorem State.setPc_memParams (s : State) (npc : Word) : (s.setPc npc).memParams = s.memParams := rfl

@[simp] theorem State.setPc_mem (s : State) (npc : Word) : (s.setPc npc).mem = s.mem := rfl

@[simp] theorem State.setPc_disp (s : State) (npc : Word) : (s.setPc npc).disp = s.disp := rfl

@[simp] theorem State.setPc_romSize (s : State) (npc : Word) : (s.setPc npc).romSize = s.romSize := rfl

@[simp] theorem State.setPc_warnTooLarge (s : State) (npc : Word) : (s.setPc npc).warnTooLarge = s.warnTooLarge := rfl

@[simp] theorem State.setPc_status (s : State) (npc : Word) : (s.setPc npc).status = s.status := rfl

@[simp] theorem State.setPc_diag (s : State) (npc : Word) : (s.setPc npc).diag = s.diag := rfl

@[simp] theorem State.setPc_sample (s : State) (npc : Word) : (s.setPc npc).sample = s.sample := rfl

@[simp] theorem State.setPc_script (s : State) (npc : Word) : (s.setPc npc).script = s.script := rfl

@[simp] theorem State.setPc_clock (s : State) (npc : Word) : (s.setPc npc).clock = s.clock := rfl

/-! ### advance -/

@[simp] theorem State.advance_v (s : State) : (s.advance).v = s.v := rfl

@[simp] theorem State.advance_i (s : State) : (s.advance).i = s.i := rfl

@[simp] theorem State.advance_pc (s : State) : (s.advance).pc = s.pc + 2 := rfl

@[simp] theorem State.advance_sp (s : State) : (s.advance).sp = s.sp := rfl

@[simp] theorem State.advance_stack (s : State) : (s.advance).stack = s.stack := rfl

@[simp] theorem State.advance_dt (s : State) : (s.advance).dt = s.dt := rfl

@[simp] theorem State.advance_st (s : State) : (s.advance).st = s.st := rfl

@[simp] theorem State.advance_memParams (s : State) : (s.advance).memParams = s.memParams := rfl

@[simp] theorem State.advance_mem (s : State) : (s.advance).mem = s.mem := rfl

@[simp] theorem State.advance_disp (s : State) : (s.advance).disp = s.disp := rfl

@[simp] theorem State.advance_romSize (s : State) : (s.advance).romSize = s.romSize := rfl

@[simp] theorem State.advance_warnTooLarge (s : State) : (s.advance).warnTooLarge = s.warnTooLarge := rfl

@[simp] theorem State.advance_status (s : State) : (s.advance).status = s.status := rfl

@[simp] theorem State.advance_diag (s : State) : (s.advance).diag = s.diag := rfl

@[simp] theorem State.advance_sample (s : State) : (s.advance).sample = s.sample := rfl

@[simp] theorem State.advance_script (s : State) : (s.advance).script = s.script := rfl

@[simp] theorem State.advance_clock (s : State) : (s.advance).clock = s.clock := rfl

/-! ### skipIf -/

@[simp] theorem State.skipIf_v (s : State) (cond : Bool) : (s.skipIf cond).v = s.v := rfl

@[simp] theorem State.skipIf_i (s : State) (cond : Bool) : (s.skipIf cond).i = s.i := rfl

@[simp] theorem State.skipIf_pc (s : State) (cond : Bool) : (s.skipIf cond).pc = if cond then s.pc + 4 else s.pc + 2 := rfl

@[simp] theorem State.skipIf_sp (s : State) (cond : Bool) : (s.skipIf cond).sp = s.sp := rfl

@[simp] theorem State.skipIf_stack (s : State) (cond : Bool) : (s.skipIf cond).stack = s.stack := rfl

@[simp] theorem State.skipIf_dt (s : State) (cond : Bool) : (s.skipIf cond).dt = s.dt := rfl

@[simp] theorem State.skipIf_st (s : State) (cond : Bool) : (s.skipIf cond).st = s.st := rfl

@[simp] theorem State.skipIf_memParams (s : State) (cond : Bool) : (s.skipIf cond).memParams = s.memParams := rfl

@[simp] theorem State.skipIf_mem (s : State) (cond : Bool) : (s.skipIf cond).mem = s.mem := rfl

@[simp] theorem State.skipIf_disp (s : State) (cond : Bool) : (s.skipIf cond).disp = s.disp := rfl

@[simp] theorem State.skipIf_romSize (s : State) (cond : Bool) : (s.skipIf cond).romSize = s.romSize := rfl

@[simp] theorem State.skipIf_warnTooLarge (s : State) (cond : Bool) : (s.skipIf cond).warnTooLarge = s.warnTooLarge := rfl

@[simp] theorem State.skipIf_status (s : State) (cond : Bool) : (s.skipIf cond).status = s.status := rfl

@[simp] theorem State.skipIf_diag (s : State) (cond : Bool) : (s.skipIf cond).diag = s.diag := rfl

@[simp] theorem State.skipIf_sample (s : State) (cond : Bool) : (s.skipIf cond).sample = s.sample := rfl

@[simp] theorem State.skipIf_script (s : State) (cond : Bool) : (s.skipIf cond).script = s.script := rfl

@[simp] theorem State.skipIf_clock (s : State) (cond : Bool) : (s.skipIf cond).clock = s.clock := rfl

/-! ### writeBlock -/

@[simp] theorem State.writeBlock_v (s : State) (a : Nat) (bs : List Byte) : (s.writeBlock a bs).v = s.v := rfl

@[simp] theorem State.writeBlock_i (s : State) (a : Nat) (bs : List Byte) : (s.writeBlock a bs).i = s.i := rfl

@[simp] theorem State.writeBlock_pc (s : State) (a : Nat) (bs : List Byte) : (s.writeBlock a bs).pc = s.pc := rfl

@[simp] theorem State.writeBlock_sp (s : State) (a : Nat) (bs : List Byte) : (s.writeBlock a bs).sp = s.sp := rfl

@[simp] theorem State.writeBlock_stack (s : State) (a : Nat) (bs : List Byte) : (s.writeBlock a bs).stack = s.stack := rfl

@[simp] theorem State.writeBlock_dt (s : State) (a : Nat) (bs : List Byte) : (s.writeBlock a bs).dt = s.dt := rfl

@[simp] theorem State.writeBlock_st (s : State) (a : Nat) (bs : List Byte) : (s.writeBlock a bs).st = s.st := rfl

@[simp] theorem State.writeBlock_memParams (s : State) (a : Nat) (bs : List Byte) : (s.writeBlock a bs).memParams = s.memParams := rfl

@[simp] theorem State.writeBlock_mem (s : State) (a : Nat) (bs : List Byte) : (s.writeBlock a bs).mem = Memory.writeBlock s.memParams s.mem a bs := rfl

@[simp] theorem State.writeBlock_disp (s : State) (a : Nat) (bs : List Byte) : (s.writeBlock a bs).disp = s.disp := rfl

@[simp] theorem State.writeBlock_romSize (s : State) (a : Nat) (bs : List Byte) : (s.writeBlock a bs).romSize = s.romSize := rfl

@[simp] theorem State.writeBlock_warnTooLarge (s : State) (a : Nat) (bs : List Byte) : (s.writeBlock a bs).warnTooLarge = s.warnTooLarge := rfl

@[simp] theorem State.writeBlock_status (s : State) (a : Nat) (bs : List Byte) : (s.writeBlock a bs).status = s.status := rfl

@[simp] theorem State.writeBlock_diag (s : State) (a : Nat) (bs : List Byte) : (s.writeBlock a bs).diag = s.diag := rfl

@[simp] theorem State.writeBlock_sample (s : State) (a : Nat) (bs : List Byte) : (s.writeBlock a bs).sample = s.sample := rfl

@[simp] theorem State.writeBlock_script (s : State) (a : Nat) (bs : List Byte) : (s.writeBlock a bs).script = s.script := rfl

@[simp] theorem State.writeBlock_clock (s : State) (a : Nat) (bs : List Byte) : (s.writeBlock a bs).clock = s.clock := rfl

/-! ### setDisp -/

@[simp] theorem State.setDisp_v (s : State) (d : Display) : (s.setDisp d).v = s.v := rfl

@[simp] theorem State.setDisp_i (s : State) (d : Display) : (s.setDisp d).i = s.i := rfl

@[simp] theorem State.setDisp_pc (s : State) (d : Display) : (s.setDisp d).pc = s.pc := rfl

@[simp] theorem State.setDisp_sp (s : State) (d : Display) : (s.setDisp d).sp = s.sp := rfl

@[simp] theorem State.setDisp_stack (s : State) (d : Display) : (s.setDisp d).stack = s.stack := rfl

@[simp] theorem State.setDisp_dt (s : State) (d : Display) : (s.setDisp d).dt = s.dt := rfl

@[simp] theorem State.setDisp_st (s : State) (d : Display) : (s.setDisp d).st = s.st := rfl

@[simp] theorem State.setDisp_memParams (s : State) (d : Display) : (s.setDisp d).memParams = s.memParams := rfl

@[simp] theorem State.setDisp_mem (s : State) (d : Display) : (s.setDisp d).mem = s.mem := rfl

@[simp] theorem State.setDisp_disp (s : State) (d : Display) : (s.setDisp d).disp = d := rfl

@[simp] theorem State.setDisp_romSize (s : State) (d : Display) : (s.setDisp d).romSize = s.romSize := rfl

@[simp] theorem State.setDisp_warnTooLarge (s : State) (d : Display) : (s.setDisp d).warnTooLarge = s.warnTooLarge := rfl

@[simp] theorem State.setDisp_status (s : State) (d : Display) : (s.setDisp d).status = s.status := rfl

@[simp] theorem State.setDisp_diag (s : State) (d : Display) : (s.setDisp d).diag = s.diag := rfl

@[simp] theorem State.setDisp_sample (s : State) (d : Display) : (s.setDisp d).sample = s.sample := rfl

@[simp] theorem State.setDisp_script (s : State) (d : Display) : (s.setDisp d).script = s.script := rfl

@[simp] theorem State.setDisp_clock (s : State) (d : Display) : (s.setDisp d).clock = s.clock := rfl

/-! ### raise -/

@[simp] theorem State.raise_v (s : State) (c : HaltCause) (w : Option Word) (a : Option (BitVec 17)) : (s.raise c w a).v = s.v := rfl

@[simp] theorem State.raise_i (s : State) (c : HaltCause) (w : Option Word) (a : Option (BitVec 17)) : (s.raise c w a).i = s.i := rfl

@[simp] theorem State.raise_pc (s : State) (c : HaltCause) (w : Option Word) (a : Option (BitVec 17)) : (s.raise c w a).pc = s.pc := rfl

@[simp] theorem State.raise_sp (s : State) (c : HaltCause) (w : Option Word) (a : Option (BitVec 17)) : (s.raise c w a).sp = s.sp := rfl

@[simp] theorem State.raise_stack (s : State) (c : HaltCause) (w : Option Word) (a : Option (BitVec 17)) : (s.raise c w a).stack = s.stack := rfl

@[simp] theorem State.raise_dt (s : State) (c : HaltCause) (w : Option Word) (a : Option (BitVec 17)) : (s.raise c w a).dt = s.dt := rfl

@[simp] theorem State.raise_st (s : State) (c : HaltCause) (w : Option Word) (a : Option (BitVec 17)) : (s.raise c w a).st = s.st := rfl

@[simp] theorem State.raise_memParams (s : State) (c : HaltCause) (w : Option Word) (a : Option (BitVec 17)) : (s.raise c w a).memParams = s.memParams := rfl

@[simp] theorem State.raise_mem (s : State) (c : HaltCause) (w : Option Word) (a : Option (BitVec 17)) : (s.raise c w a).mem = s.mem := rfl

@[simp] theorem State.raise_disp (s : State) (c : HaltCause) (w : Option Word) (a : Option (BitVec 17)) : (s.raise c w a).disp = s.disp := rfl

@[simp] theorem State.raise_romSize (s : State) (c : HaltCause) (w : Option Word) (a : Option (BitVec 17)) : (s.raise c w a).romSize = s.romSize := rfl

@[simp] theorem State.raise_warnTooLarge (s : State) (c : HaltCause) (w : Option Word) (a : Option (BitVec 17)) : (s.raise c w a).warnTooLarge = s.warnTooLarge := rfl

@[simp] theorem State.raise_status (s : State) (c : HaltCause) (w : Option Word) (a : Option (BitVec 17)) : (s.raise c w a).status = { run := .halted, haltCause := c, haltPc := s.pc, haltInsn := w, haltAddr := a } := rfl

@[simp] theorem State.raise_diag (s : State) (c : HaltCause) (w : Option Word) (a : Option (BitVec 17)) : (s.raise c w a).diag = s.diag := rfl

@[simp] theorem State.raise_sample (s : State) (c : HaltCause) (w : Option Word) (a : Option (BitVec 17)) : (s.raise c w a).sample = s.sample := rfl

@[simp] theorem State.raise_script (s : State) (c : HaltCause) (w : Option Word) (a : Option (BitVec 17)) : (s.raise c w a).script = s.script := rfl

@[simp] theorem State.raise_clock (s : State) (c : HaltCause) (w : Option Word) (a : Option (BitVec 17)) : (s.raise c w a).clock = s.clock := rfl

/-! ### raiseIn -/

@[simp] theorem State.raiseIn_v (s : State) (i : Instr) (c : HaltCause) (a : Option (BitVec 17)) : (s.raiseIn i c a).v = s.v := rfl

@[simp] theorem State.raiseIn_i (s : State) (i : Instr) (c : HaltCause) (a : Option (BitVec 17)) : (s.raiseIn i c a).i = s.i := rfl

@[simp] theorem State.raiseIn_pc (s : State) (i : Instr) (c : HaltCause) (a : Option (BitVec 17)) : (s.raiseIn i c a).pc = s.pc := rfl

@[simp] theorem State.raiseIn_sp (s : State) (i : Instr) (c : HaltCause) (a : Option (BitVec 17)) : (s.raiseIn i c a).sp = s.sp := rfl

@[simp] theorem State.raiseIn_stack (s : State) (i : Instr) (c : HaltCause) (a : Option (BitVec 17)) : (s.raiseIn i c a).stack = s.stack := rfl

@[simp] theorem State.raiseIn_dt (s : State) (i : Instr) (c : HaltCause) (a : Option (BitVec 17)) : (s.raiseIn i c a).dt = s.dt := rfl

@[simp] theorem State.raiseIn_st (s : State) (i : Instr) (c : HaltCause) (a : Option (BitVec 17)) : (s.raiseIn i c a).st = s.st := rfl

@[simp] theorem State.raiseIn_memParams (s : State) (i : Instr) (c : HaltCause) (a : Option (BitVec 17)) : (s.raiseIn i c a).memParams = s.memParams := rfl

@[simp] theorem State.raiseIn_mem (s : State) (i : Instr) (c : HaltCause) (a : Option (BitVec 17)) : (s.raiseIn i c a).mem = s.mem := rfl

@[simp] theorem State.raiseIn_disp (s : State) (i : Instr) (c : HaltCause) (a : Option (BitVec 17)) : (s.raiseIn i c a).disp = s.disp := rfl

@[simp] theorem State.raiseIn_romSize (s : State) (i : Instr) (c : HaltCause) (a : Option (BitVec 17)) : (s.raiseIn i c a).romSize = s.romSize := rfl

@[simp] theorem State.raiseIn_warnTooLarge (s : State) (i : Instr) (c : HaltCause) (a : Option (BitVec 17)) : (s.raiseIn i c a).warnTooLarge = s.warnTooLarge := rfl

@[simp] theorem State.raiseIn_status (s : State) (i : Instr) (c : HaltCause) (a : Option (BitVec 17)) : (s.raiseIn i c a).status = { run := .halted, haltCause := c, haltPc := s.pc, haltInsn := some (encode i), haltAddr := a } := rfl

@[simp] theorem State.raiseIn_diag (s : State) (i : Instr) (c : HaltCause) (a : Option (BitVec 17)) : (s.raiseIn i c a).diag = s.diag := rfl

@[simp] theorem State.raiseIn_sample (s : State) (i : Instr) (c : HaltCause) (a : Option (BitVec 17)) : (s.raiseIn i c a).sample = s.sample := rfl

@[simp] theorem State.raiseIn_script (s : State) (i : Instr) (c : HaltCause) (a : Option (BitVec 17)) : (s.raiseIn i c a).script = s.script := rfl

@[simp] theorem State.raiseIn_clock (s : State) (i : Instr) (c : HaltCause) (a : Option (BitVec 17)) : (s.raiseIn i c a).clock = s.clock := rfl

/-! ### unsupported -/

@[simp] theorem State.unsupported_v (s : State) (w : Word) : (s.unsupported w).v = s.v := rfl

@[simp] theorem State.unsupported_i (s : State) (w : Word) : (s.unsupported w).i = s.i := rfl

@[simp] theorem State.unsupported_pc (s : State) (w : Word) : (s.unsupported w).pc = s.pc + 2 := rfl

@[simp] theorem State.unsupported_sp (s : State) (w : Word) : (s.unsupported w).sp = s.sp := rfl

@[simp] theorem State.unsupported_stack (s : State) (w : Word) : (s.unsupported w).stack = s.stack := rfl

@[simp] theorem State.unsupported_dt (s : State) (w : Word) : (s.unsupported w).dt = s.dt := rfl

@[simp] theorem State.unsupported_st (s : State) (w : Word) : (s.unsupported w).st = s.st := rfl

@[simp] theorem State.unsupported_memParams (s : State) (w : Word) : (s.unsupported w).memParams = s.memParams := rfl

@[simp] theorem State.unsupported_mem (s : State) (w : Word) : (s.unsupported w).mem = s.mem := rfl

@[simp] theorem State.unsupported_disp (s : State) (w : Word) : (s.unsupported w).disp = s.disp := rfl

@[simp] theorem State.unsupported_romSize (s : State) (w : Word) : (s.unsupported w).romSize = s.romSize := rfl

@[simp] theorem State.unsupported_warnTooLarge (s : State) (w : Word) : (s.unsupported w).warnTooLarge = s.warnTooLarge := rfl

@[simp] theorem State.unsupported_status (s : State) (w : Word) : (s.unsupported w).status = s.status := rfl

@[simp] theorem State.unsupported_diag (s : State) (w : Word) : (s.unsupported w).diag = some { pc := s.pc, word := w } := rfl

@[simp] theorem State.unsupported_sample (s : State) (w : Word) : (s.unsupported w).sample = s.sample := rfl

@[simp] theorem State.unsupported_script (s : State) (w : Word) : (s.unsupported w).script = s.script := rfl

@[simp] theorem State.unsupported_clock (s : State) (w : Word) : (s.unsupported w).clock = s.clock := rfl

/-! ### present -/

@[simp] theorem State.present_v (s : State) : (s.present).v = s.v := rfl

@[simp] theorem State.present_i (s : State) : (s.present).i = s.i := rfl

@[simp] theorem State.present_pc (s : State) : (s.present).pc = s.pc := rfl

@[simp] theorem State.present_sp (s : State) : (s.present).sp = s.sp := rfl

@[simp] theorem State.present_stack (s : State) : (s.present).stack = s.stack := rfl

@[simp] theorem State.present_dt (s : State) : (s.present).dt = s.dt := rfl

@[simp] theorem State.present_st (s : State) : (s.present).st = s.st := rfl

@[simp] theorem State.present_memParams (s : State) : (s.present).memParams = s.memParams := rfl

@[simp] theorem State.present_mem (s : State) : (s.present).mem = s.mem := rfl

@[simp] theorem State.present_disp (s : State) : (s.present).disp = s.disp := rfl

@[simp] theorem State.present_romSize (s : State) : (s.present).romSize = s.romSize := rfl

@[simp] theorem State.present_warnTooLarge (s : State) : (s.present).warnTooLarge = s.warnTooLarge := rfl

@[simp] theorem State.present_status (s : State) : (s.present).status = s.status := rfl

@[simp] theorem State.present_diag (s : State) : (s.present).diag = none := rfl

@[simp] theorem State.present_sample (s : State) : (s.present).sample = s.nextInput.sample := rfl

@[simp] theorem State.present_script (s : State) : (s.present).script = s.script.tail := rfl

@[simp] theorem State.present_clock (s : State) : (s.present).clock = s.clock + 1 := rfl

/-! ### A flag and a result -/

@[simp] theorem State.setFlagged_i (s : State) (x : Reg) (flag : Bool) (b : Byte) : (s.setFlagged x flag b).i = s.i := rfl

@[simp] theorem State.setFlagged_pc (s : State) (x : Reg) (flag : Bool) (b : Byte) : (s.setFlagged x flag b).pc = s.pc := rfl

@[simp] theorem State.setFlagged_sp (s : State) (x : Reg) (flag : Bool) (b : Byte) : (s.setFlagged x flag b).sp = s.sp := rfl

@[simp] theorem State.setFlagged_stack (s : State) (x : Reg) (flag : Bool) (b : Byte) : (s.setFlagged x flag b).stack = s.stack := rfl

@[simp] theorem State.setFlagged_dt (s : State) (x : Reg) (flag : Bool) (b : Byte) : (s.setFlagged x flag b).dt = s.dt := rfl

@[simp] theorem State.setFlagged_st (s : State) (x : Reg) (flag : Bool) (b : Byte) : (s.setFlagged x flag b).st = s.st := rfl

@[simp] theorem State.setFlagged_memParams (s : State) (x : Reg) (flag : Bool) (b : Byte) : (s.setFlagged x flag b).memParams = s.memParams := rfl

@[simp] theorem State.setFlagged_mem (s : State) (x : Reg) (flag : Bool) (b : Byte) : (s.setFlagged x flag b).mem = s.mem := rfl

@[simp] theorem State.setFlagged_disp (s : State) (x : Reg) (flag : Bool) (b : Byte) : (s.setFlagged x flag b).disp = s.disp := rfl

@[simp] theorem State.setFlagged_romSize (s : State) (x : Reg) (flag : Bool) (b : Byte) : (s.setFlagged x flag b).romSize = s.romSize := rfl

@[simp] theorem State.setFlagged_warnTooLarge (s : State) (x : Reg) (flag : Bool) (b : Byte) : (s.setFlagged x flag b).warnTooLarge = s.warnTooLarge := rfl

@[simp] theorem State.setFlagged_status (s : State) (x : Reg) (flag : Bool) (b : Byte) : (s.setFlagged x flag b).status = s.status := rfl

@[simp] theorem State.setFlagged_diag (s : State) (x : Reg) (flag : Bool) (b : Byte) : (s.setFlagged x flag b).diag = s.diag := rfl

@[simp] theorem State.setFlagged_sample (s : State) (x : Reg) (flag : Bool) (b : Byte) : (s.setFlagged x flag b).sample = s.sample := rfl

@[simp] theorem State.setFlagged_script (s : State) (x : Reg) (flag : Bool) (b : Byte) : (s.setFlagged x flag b).script = s.script := rfl

@[simp] theorem State.setFlagged_clock (s : State) (x : Reg) (flag : Bool) (b : Byte) : (s.setFlagged x flag b).clock = s.clock := rfl

/-! ### What reading a register, a byte of memory or the program bounds depends on -/

@[simp] theorem State.reg_setI (s : State) (w : Word) (z : Reg) : (s.setI w).reg z = s.reg z := rfl

@[simp] theorem State.reg_setDt (s : State) (b : Byte) (z : Reg) : (s.setDt b).reg z = s.reg z := rfl

@[simp] theorem State.reg_setSt (s : State) (b : Byte) (z : Reg) : (s.setSt b).reg z = s.reg z := rfl

@[simp] theorem State.reg_setPc (s : State) (npc : Word) (z : Reg) : (s.setPc npc).reg z = s.reg z := rfl

@[simp] theorem State.reg_advance (s : State) (z : Reg) : (s.advance).reg z = s.reg z := rfl

@[simp] theorem State.reg_skipIf (s : State) (cond : Bool) (z : Reg) : (s.skipIf cond).reg z = s.reg z := rfl

@[simp] theorem State.reg_writeBlock (s : State) (a : Nat) (bs : List Byte) (z : Reg) : (s.writeBlock a bs).reg z = s.reg z := rfl

@[simp] theorem State.reg_setDisp (s : State) (d : Display) (z : Reg) : (s.setDisp d).reg z = s.reg z := rfl

@[simp] theorem State.reg_raise (s : State) (c : HaltCause) (w : Option Word) (ad : Option (BitVec 17)) (z : Reg) : (s.raise c w ad).reg z = s.reg z := rfl

@[simp] theorem State.reg_raiseIn (s : State) (i : Instr) (c : HaltCause) (ad : Option (BitVec 17)) (z : Reg) : (s.raiseIn i c ad).reg z = s.reg z := rfl

@[simp] theorem State.reg_unsupported (s : State) (w : Word) (z : Reg) : (s.unsupported w).reg z = s.reg z := rfl

@[simp] theorem State.reg_present (s : State) (z : Reg) : (s.present).reg z = s.reg z := rfl

@[simp] theorem State.readByte_setReg (s : State) (x : Reg) (b : Byte) (k : Nat) : (s.setReg x b).readByte k = s.readByte k := rfl

@[simp] theorem State.readByte_setI (s : State) (w : Word) (k : Nat) : (s.setI w).readByte k = s.readByte k := rfl

@[simp] theorem State.readByte_setDt (s : State) (b : Byte) (k : Nat) : (s.setDt b).readByte k = s.readByte k := rfl

@[simp] theorem State.readByte_setSt (s : State) (b : Byte) (k : Nat) : (s.setSt b).readByte k = s.readByte k := rfl

@[simp] theorem State.readByte_setPc (s : State) (npc : Word) (k : Nat) : (s.setPc npc).readByte k = s.readByte k := rfl

@[simp] theorem State.readByte_advance (s : State) (k : Nat) : (s.advance).readByte k = s.readByte k := rfl

@[simp] theorem State.readByte_skipIf (s : State) (cond : Bool) (k : Nat) : (s.skipIf cond).readByte k = s.readByte k := rfl

@[simp] theorem State.readByte_setDisp (s : State) (d : Display) (k : Nat) : (s.setDisp d).readByte k = s.readByte k := rfl

@[simp] theorem State.readByte_raise (s : State) (c : HaltCause) (w : Option Word) (ad : Option (BitVec 17)) (k : Nat) : (s.raise c w ad).readByte k = s.readByte k := rfl

@[simp] theorem State.readByte_raiseIn (s : State) (i : Instr) (c : HaltCause) (ad : Option (BitVec 17)) (k : Nat) : (s.raiseIn i c ad).readByte k = s.readByte k := rfl

@[simp] theorem State.readByte_unsupported (s : State) (w : Word) (k : Nat) : (s.unsupported w).readByte k = s.readByte k := rfl

@[simp] theorem State.readByte_present (s : State) (k : Nat) : (s.present).readByte k = s.readByte k := rfl

@[simp] theorem State.readByte_setFlagged (s : State) (x : Reg) (flag : Bool) (b : Byte) (k : Nat) : (s.setFlagged x flag b).readByte k = s.readByte k := rfl

end Sys2Proof.Machine
end

