-- ==== Sys2Proof/Laws/Ops.lean ====
section
/-! SUPPORT. What each shared operation can do, said once: registers, stack, bound check, fetch, blocks of registers, program counter. -/

namespace Sys2Proof.Machine

/-! ### Registers -/

theorem State.reg_setReg (s : State) (x z : Reg) (b : Byte) : (s.setReg x b).reg z = if z = x then b else s.reg z := by
  simp only [State.reg, State.setReg, Fin.getElem_fin, Vector.getElem_set, Fin.ext_iff, eq_comm]

/-- R166: after the flag and the result, V[x] holds the result, VF (when it is not V[x]) the flag, every other register its old value. -/
theorem State.reg_setFlagged (s : State) (x z : Reg) (flag : Bool) (b : Byte) :
    (s.setFlagged x flag b).reg z = if z = x then b else if z = vf then flagByte flag else s.reg z := by
  simp only [State.setFlagged, State.reg_setReg]

theorem flagByte_toNat (b : Bool) : (flagByte b).toNat = b.toNat := by cases b <;> rfl

/-! ### Stack (R27) -/

/-- A push that answers wrote one entry and raised SP; a push on a full stack answers nothing. -/
theorem State.push_cases (s : State) (w : Word) :
    (s.sp.val = 16 ∧ s.push w = none) ∨
      ∃ (h : s.sp.val < 16) (h' : s.sp.val + 1 < 17),
        s.push w = some { s with stack := s.stack.set s.sp.val w h, sp := ⟨s.sp.val + 1, h'⟩ } := by
  by_cases h : s.sp.val < 16
  · exact .inr ⟨h, by omega, by rw [State.push, dif_pos h]⟩
  · exact .inl ⟨by omega, by rw [State.push, dif_neg h]⟩

/-- A pop that answers gave the entry below SP and lowered SP; a pop of an empty stack answers nothing. -/
theorem State.pop_cases (s : State) :
    (s.sp.val = 0 ∧ s.pop = none) ∨
      ∃ (_ : 0 < s.sp.val) (h : s.sp.val - 1 < 16) (h' : s.sp.val - 1 < 17),
        s.pop = some (s.stack[s.sp.val - 1], { s with sp := ⟨s.sp.val - 1, h'⟩ }) := by
  by_cases h : 0 < s.sp.val
  · exact .inr ⟨h, by omega, by omega, by rw [State.pop, dif_pos h]⟩
  · exact .inl ⟨by omega, by rw [State.pop, dif_neg h]⟩

/-! ### The bound check (R66) -/

theorem spanFault_eq_none {base n : Nat} : spanFault base n = none ↔ n = 0 ∨ base + n ≤ 4096 := by
  simp only [spanFault]
  split <;> simp_all

theorem spanFault_eq_some {base n : Nat} (h0 : 0 < n) (h : 4096 < base + n) :
    spanFault base n = some (BitVec.ofNat 17 (max base 0x1000)) := by
  rw [spanFault, if_neg (by omega)]

/-- The reported address is the number max(base, 0x1000), which 17 bits hold for a 16-bit base. -/
theorem spanFault_toNat (w : Word) : (BitVec.ofNat 17 (max w.toNat 0x1000)).toNat = max w.toNat 0x1000 := by
  have := w.isLt
  rw [BitVec.toNat_ofNat, Nat.mod_eq_of_lt (by omega)]

/-- A checked access either passes and has its effect, or fails and only the halt record is written. -/
theorem State.checked_cases (s : State) (ins : Instr) (n : Nat) (done : State) :
    ((n = 0 ∨ s.i.toNat + n ≤ 4096) ∧ s.checked ins n done = done) ∨
      (0 < n ∧ 4096 < s.i.toNat + n ∧
        s.checked ins n done = s.raiseIn ins .addressOutOfRange (some (BitVec.ofNat 17 (max s.i.toNat 0x1000)))) := by
  by_cases h : n = 0 ∨ s.i.toNat + n ≤ 4096
  · exact .inl ⟨h, by rw [State.checked, spanFault_eq_none.mpr h]⟩
  · have h0 : 0 < n := by omega
    have h1 : 4096 < s.i.toNat + n := by omega
    exact .inr ⟨h0, h1, by rw [State.checked, spanFault_eq_some h0 h1]⟩

/-! ### Fetch (R60) -/

/-- A fetch gives the word at PC, or fails when PC + 1 is outside memory. -/
theorem State.fetch_cases (s : State) :
    (s.pc.toNat + 2 ≤ 4096 ∧
        s.fetch = .ok (combineBytes (s.readByte s.pc.toNat) (s.readByte (s.pc.toNat + 1)))) ∨
      (4096 < s.pc.toNat + 2 ∧ s.fetch = .error (BitVec.ofNat 17 (max s.pc.toNat 0x1000))) := by
  by_cases h : s.pc.toNat + 2 ≤ 4096
  · exact .inl ⟨h, by rw [State.fetch, spanFault_eq_none.mpr (.inr h)]⟩
  · exact .inr ⟨by omega, by rw [State.fetch, spanFault_eq_some (by omega) (by omega)]⟩

theorem State.inProgram_iff {s : State} :
    s.inProgram = true ↔ 0x200 ≤ s.pc.toNat ∧ s.pc.toNat < 0x200 + s.romSize.val := by
  simp only [State.inProgram, decide_eq_true_eq]

/-! ### Blocks of registers (R194, R195) -/

theorem State.length_regsUpTo (s : State) (x : Reg) : (s.regsUpTo x).length = x.val + 1 := by
  simp [State.regsUpTo, regCount]

theorem State.getElem_regsUpTo (s : State) (x : Reg) (k : Nat) (h : k < (s.regsUpTo x).length) :
    (s.regsUpTo x)[k] = s.reg (Fin.ofNat 16 k) := by
  simp [State.regsUpTo]

/-- Registers written from a list: V[k + j] receives byte j, every other register keeps its value. -/
theorem State.reg_setRegsFrom (bs : List Byte) (s : State) (k : Nat) (hk : k + bs.length ≤ 16) (z : Reg) :
    (s.setRegsFrom k bs).reg z = if h : k ≤ z.val ∧ z.val < k + bs.length then bs[z.val - k] else s.reg z := by
  induction bs generalizing s k with
  | nil =>
    have : ¬(k ≤ z.val ∧ z.val < k + 0) := by omega
    simp [State.setRegsFrom]
  | cons b bs ih =>
    simp only [List.length_cons] at hk
    rw [State.setRegsFrom, ih _ _ (by omega)]
    by_cases hz : z.val = k
    · have h1 : ¬(k + 1 ≤ z.val ∧ z.val < k + 1 + bs.length) := by omega
      have h2 : k ≤ z.val ∧ z.val < k + (b :: bs).length := by simp only [List.length_cons]; omega
      have h3 : z = Fin.ofNat 16 k := Fin.ext (by rw [Fin.val_ofNat, Nat.mod_eq_of_lt (by omega)]; exact hz)
      rw [dif_neg h1, dif_pos h2, State.reg_setReg, if_pos h3]
      simp [hz]
    · have h3 : z ≠ Fin.ofNat 16 k := by
        intro h
        rw [h, Fin.val_ofNat, Nat.mod_eq_of_lt (by omega)] at hz
        exact hz rfl
      by_cases hin : k + 1 ≤ z.val ∧ z.val < k + 1 + bs.length
      · have h2 : k ≤ z.val ∧ z.val < k + (b :: bs).length := by simp only [List.length_cons]; omega
        rw [dif_pos hin, dif_pos h2]
        have h4 : z.val - k = (z.val - (k + 1)) + 1 := by omega
        simp only [h4, List.getElem_cons_succ]
      · have h2 : ¬(k ≤ z.val ∧ z.val < k + (b :: bs).length) := by simp only [List.length_cons]; omega
        rw [dif_neg hin, dif_neg h2, State.reg_setReg, if_neg h3]

/-- Writing registers changes nothing but `v`. -/
theorem State.setRegsFrom_eq (bs : List Byte) (s : State) (k : Nat) :
    s.setRegsFrom k bs = { s with v := (s.setRegsFrom k bs).v } := by
  induction bs generalizing s k with
  | nil => rfl
  | cons b bs ih => rw [State.setRegsFrom, ih]; rfl

/-! ### Timers (R245) -/

/-- A tick is subtraction of one that stops at 0. -/
theorem tickDown_toNat (b : Byte) : (tickDown b).toNat = b.toNat - 1 := by
  have := b.isLt
  simp only [tickDown]
  split
  · have h1 : (1 : Byte).toNat = 1 := rfl
    rw [BitVec.toNat_sub, h1]
    omega
  · omega

end Sys2Proof.Machine
end

