-- ==== Sys2Proof/Laws/PerInstr.lean ====
section
/-! SUPPORT. For every instruction: its word has the fixed bits of its row of the opcode map (spec/30_encoding.md R97). -/

namespace Sys2Proof.Laws.OpcodeRowFits

/-- The instruction's word lies in a row of the opcode map that carries the instruction's mnemonic. -/
def Statement (i : Instr) : Prop := ∃ r ∈ opcodeTable, r.mnemonic = i.mnemonic ∧ r.covers (encode i) = true

/-- A one-level row covers every word with its opcode. -/
theorem covers_op {w : Word} {op : Nat} {mn : String} (h : opField w = op) :
    OpcodeRow.covers ⟨mn, 0xF000, BitVec.ofNat 16 (op * 0x1000)⟩ w = true := by
  rw [OpcodeRow.covers, beq_iff_eq]
  exact and_opMask_eq h

/-- A row of group 0x8 covers every word with its opcode and low nibble. -/
theorem covers_8 {w : Word} {op n : Nat} {mn : String} (h : opField w = op) (hn : bits w 3 0 = n) :
    OpcodeRow.covers ⟨mn, 0xF00F, BitVec.ofNat 16 (op * 0x1000) ||| BitVec.ofNat 16 n⟩ w = true := by
  rw [OpcodeRow.covers, beq_iff_eq]
  exact and_mask8_eq h hn

/-- A row of groups 0xE and 0xF covers every word with its opcode and low byte. -/
theorem covers_EF {w : Word} {op n : Nat} {mn : String} (h : opField w = op) (hn : bits w 7 0 = n) :
    OpcodeRow.covers ⟨mn, 0xF0FF, BitVec.ofNat 16 (op * 0x1000) ||| BitVec.ofNat 16 n⟩ w = true := by
  rw [OpcodeRow.covers, beq_iff_eq]
  exact and_maskEF_eq h hn

theorem cls : Statement .cls :=
  ⟨⟨"CLS", 0xFFFF, 0x00E0⟩, by decide, rfl, rfl⟩

theorem ret : Statement .ret :=
  ⟨⟨"RET", 0xFFFF, 0x00EE⟩, by decide, rfl, rfl⟩

theorem jp (nnn : Addr12) : Statement (.jp nnn) :=
  ⟨⟨"JP_nnn", 0xF000, 0x1000⟩, by decide, rfl, covers_op (opField_packNNN (by decide) nnn)⟩

theorem call (nnn : Addr12) : Statement (.call nnn) :=
  ⟨⟨"CALL_nnn", 0xF000, 0x2000⟩, by decide, rfl, covers_op (opField_packNNN (by decide) nnn)⟩

theorem seImm (x : Reg) (nn : Byte) : Statement (.seImm x nn) :=
  ⟨⟨"SE_Vx_nn", 0xF000, 0x3000⟩, by decide, rfl, covers_op (opField_packXNN (by decide) x nn)⟩

theorem sneImm (x : Reg) (nn : Byte) : Statement (.sneImm x nn) :=
  ⟨⟨"SNE_Vx_nn", 0xF000, 0x4000⟩, by decide, rfl, covers_op (opField_packXNN (by decide) x nn)⟩

theorem seReg (x y : Reg) (low : Nibble) : Statement (.seReg x y low) :=
  ⟨⟨"SE_Vx_Vy", 0xF000, 0x5000⟩, by decide, rfl, covers_op (opField_packXYN (by decide) x y low)⟩

theorem ldImm (x : Reg) (nn : Byte) : Statement (.ldImm x nn) :=
  ⟨⟨"LD_Vx_nn", 0xF000, 0x6000⟩, by decide, rfl, covers_op (opField_packXNN (by decide) x nn)⟩

theorem addImm (x : Reg) (nn : Byte) : Statement (.addImm x nn) :=
  ⟨⟨"ADD_Vx_nn", 0xF000, 0x7000⟩, by decide, rfl, covers_op (opField_packXNN (by decide) x nn)⟩

theorem ldReg (x y : Reg) : Statement (.ldReg x y) :=
  ⟨⟨"LD_Vx_Vy", 0xF00F, 0x8000⟩, by decide, rfl, covers_8 (opField_packXYN (by decide) x y _) (nBits_packXYN (by decide) x y _)⟩

theorem orReg (x y : Reg) : Statement (.orReg x y) :=
  ⟨⟨"OR_Vx_Vy", 0xF00F, 0x8001⟩, by decide, rfl, covers_8 (opField_packXYN (by decide) x y _) (nBits_packXYN (by decide) x y _)⟩

theorem andReg (x y : Reg) : Statement (.andReg x y) :=
  ⟨⟨"AND_Vx_Vy", 0xF00F, 0x8002⟩, by decide, rfl, covers_8 (opField_packXYN (by decide) x y _) (nBits_packXYN (by decide) x y _)⟩

theorem xorReg (x y : Reg) : Statement (.xorReg x y) :=
  ⟨⟨"XOR_Vx_Vy", 0xF00F, 0x8003⟩, by decide, rfl, covers_8 (opField_packXYN (by decide) x y _) (nBits_packXYN (by decide) x y _)⟩

theorem addReg (x y : Reg) : Statement (.addReg x y) :=
  ⟨⟨"ADD_Vx_Vy", 0xF00F, 0x8004⟩, by decide, rfl, covers_8 (opField_packXYN (by decide) x y _) (nBits_packXYN (by decide) x y _)⟩

theorem subReg (x y : Reg) : Statement (.subReg x y) :=
  ⟨⟨"SUB_Vx_Vy", 0xF00F, 0x8005⟩, by decide, rfl, covers_8 (opField_packXYN (by decide) x y _) (nBits_packXYN (by decide) x y _)⟩

theorem shr (x y : Reg) : Statement (.shr x y) :=
  ⟨⟨"SHR_Vx", 0xF00F, 0x8006⟩, by decide, rfl, covers_8 (opField_packXYN (by decide) x y _) (nBits_packXYN (by decide) x y _)⟩

theorem subnReg (x y : Reg) : Statement (.subnReg x y) :=
  ⟨⟨"SUBN_Vx_Vy", 0xF00F, 0x8007⟩, by decide, rfl, covers_8 (opField_packXYN (by decide) x y _) (nBits_packXYN (by decide) x y _)⟩

theorem shl (x y : Reg) : Statement (.shl x y) :=
  ⟨⟨"SHL_Vx", 0xF00F, 0x800E⟩, by decide, rfl, covers_8 (opField_packXYN (by decide) x y _) (nBits_packXYN (by decide) x y _)⟩

theorem sneReg (x y : Reg) (low : Nibble) : Statement (.sneReg x y low) :=
  ⟨⟨"SNE_Vx_Vy", 0xF000, 0x9000⟩, by decide, rfl, covers_op (opField_packXYN (by decide) x y low)⟩

theorem ldI (nnn : Addr12) : Statement (.ldI nnn) :=
  ⟨⟨"LD_I_nnn", 0xF000, 0xA000⟩, by decide, rfl, covers_op (opField_packNNN (by decide) nnn)⟩

theorem jpV0 (nnn : Addr12) : Statement (.jpV0 nnn) :=
  ⟨⟨"JP_V0_nnn", 0xF000, 0xB000⟩, by decide, rfl, covers_op (opField_packNNN (by decide) nnn)⟩

theorem rnd (x : Reg) (nn : Byte) : Statement (.rnd x nn) :=
  ⟨⟨"RND_Vx_nn", 0xF000, 0xC000⟩, by decide, rfl, covers_op (opField_packXNN (by decide) x nn)⟩

theorem drw (x y : Reg) (n : Nibble) : Statement (.drw x y n) :=
  ⟨⟨"DRW_Vx_Vy_n", 0xF000, 0xD000⟩, by decide, rfl, covers_op (opField_packXYN (by decide) x y n)⟩

theorem skp (x : Reg) : Statement (.skp x) :=
  ⟨⟨"SKP_Vx", 0xF0FF, 0xE09E⟩, by decide, rfl, covers_EF (opField_packXNN (by decide) x _) (nnBits_packXNN (by decide) x _)⟩

theorem sknp (x : Reg) : Statement (.sknp x) :=
  ⟨⟨"SKNP_Vx", 0xF0FF, 0xE0A1⟩, by decide, rfl, covers_EF (opField_packXNN (by decide) x _) (nnBits_packXNN (by decide) x _)⟩

theorem ldVxDt (x : Reg) : Statement (.ldVxDt x) :=
  ⟨⟨"LD_Vx_DT", 0xF0FF, 0xF007⟩, by decide, rfl, covers_EF (opField_packXNN (by decide) x _) (nnBits_packXNN (by decide) x _)⟩

theorem ldVxK (x : Reg) : Statement (.ldVxK x) :=
  ⟨⟨"LD_Vx_K", 0xF0FF, 0xF00A⟩, by decide, rfl, covers_EF (opField_packXNN (by decide) x _) (nnBits_packXNN (by decide) x _)⟩

theorem ldDtVx (x : Reg) : Statement (.ldDtVx x) :=
  ⟨⟨"LD_DT_Vx", 0xF0FF, 0xF015⟩, by decide, rfl, covers_EF (opField_packXNN (by decide) x _) (nnBits_packXNN (by decide) x _)⟩

theorem ldStVx (x : Reg) : Statement (.ldStVx x) :=
  ⟨⟨"LD_ST_Vx", 0xF0FF, 0xF018⟩, by decide, rfl, covers_EF (opField_packXNN (by decide) x _) (nnBits_packXNN (by decide) x _)⟩

theorem addI (x : Reg) : Statement (.addI x) :=
  ⟨⟨"ADD_I_Vx", 0xF0FF, 0xF01E⟩, by decide, rfl, covers_EF (opField_packXNN (by decide) x _) (nnBits_packXNN (by decide) x _)⟩

theorem ldF (x : Reg) : Statement (.ldF x) :=
  ⟨⟨"LD_F_Vx", 0xF0FF, 0xF029⟩, by decide, rfl, covers_EF (opField_packXNN (by decide) x _) (nnBits_packXNN (by decide) x _)⟩

theorem ldB (x : Reg) : Statement (.ldB x) :=
  ⟨⟨"LD_B_Vx", 0xF0FF, 0xF033⟩, by decide, rfl, covers_EF (opField_packXNN (by decide) x _) (nnBits_packXNN (by decide) x _)⟩

theorem storeRegs (x : Reg) : Statement (.storeRegs x) :=
  ⟨⟨"LD__I__Vx", 0xF0FF, 0xF055⟩, by decide, rfl, covers_EF (opField_packXNN (by decide) x _) (nnBits_packXNN (by decide) x _)⟩

theorem loadRegs (x : Reg) : Statement (.loadRegs x) :=
  ⟨⟨"LD_Vx__I", 0xF0FF, 0xF065⟩, by decide, rfl, covers_EF (opField_packXNN (by decide) x _) (nnBits_packXNN (by decide) x _)⟩

end Sys2Proof.Laws.OpcodeRowFits
end

