-- ==== Sys2Proof/Laws/Step.lean ====
section
/-! SUPPORT. What a step can do, said once: the inversion lemmas from which claims about steps are derived (spec/60_exceptions.md R231). -/

namespace Sys2Proof.Machine

/-- The four things an instruction step of a Running core can do, and the one of a Halted core (R231, R239). -/
theorem instructionStep_cases {s : State} :
    (s.status.run = .halted ∧ instructionStep s = .next s) ∨
      (s.status.run = .running ∧ s.inProgram = false ∧ instructionStep s = .next (s.raise .programExhausted none none)) ∨
      (s.status.run = .running ∧ s.inProgram = true ∧
        ∃ a, s.fetch = .error a ∧ instructionStep s = .next (s.raise .addressOutOfRange none (some a))) ∨
      (s.status.run = .running ∧ s.inProgram = true ∧
        ∃ w, s.fetch = .ok w ∧ decodeWord w = none ∧ instructionStep s = .next (s.unsupported w)) ∨
      (s.status.run = .running ∧ s.inProgram = true ∧
        ∃ w i, s.fetch = .ok w ∧ decodeWord w = some i ∧ instructionStep s = exec i s) := by
  cases hr : s.status.run with
  | halted => exact .inl ⟨rfl, by rw [instructionStep, hr]⟩
  | running =>
    refine .inr ?_
    cases hp : s.inProgram with
    | false => exact .inl ⟨rfl, rfl, by simp only [instructionStep, hr, hp, Bool.false_eq_true, if_false]⟩
    | true =>
      refine .inr ?_
      cases hf : s.fetch with
      | error a => exact .inl ⟨rfl, rfl, a, rfl, by simp only [instructionStep, hr, hp, hf, if_true]⟩
      | ok w =>
        refine .inr ?_
        cases hd : decodeWord w with
        | none =>
          exact .inl ⟨rfl, rfl, w, rfl, hd, by simp only [instructionStep, hr, hp, hf, if_true, execWord, hd]⟩
        | some i =>
          exact .inr ⟨rfl, rfl, w, i, rfl, hd, by simp only [instructionStep, hr, hp, hf, if_true, execWord, hd]⟩

/-- The three things a step can do: the request of the next input says which (R6, R42). -/
theorem step_cases (s : State) :
    (s.nextInput.request = .doStep ∧ step s = instructionStep s.present) ∨
      (s.nextInput.request = .doTick ∧ step s = .next s.present.tick) ∨
      ∃ rom p, s.nextInput.request = .resetLoad rom p ∧ step s = .next (s.present.resetLoad rom p) := by
  cases h : s.nextInput.request with
  | doStep => exact .inl ⟨rfl, by rw [step, hostStep, h]; rfl⟩
  | doTick => exact .inr (.inl ⟨rfl, by rw [step, hostStep, h]; rfl⟩)
  | resetLoad rom p => exact .inr (.inr ⟨rom, p, rfl, by rw [step, hostStep, h]; rfl⟩)

/-- A tick of a Running core lowers both timers; of a Halted core it does nothing (R245). -/
theorem State.tick_cases (s : State) :
    (s.status.run = .halted ∧ s.tick = s) ∨
      (s.status.run = .running ∧ s.tick = (s.setDt (tickDown s.dt)).setSt (tickDown s.st)) := by
  cases h : s.status.run with
  | halted => exact .inl ⟨rfl, by rw [State.tick, h]⟩
  | running => exact .inr ⟨rfl, by rw [State.tick, h]⟩

/-- Presenting the inputs changes nothing the program can reach: fetch, program bounds and RUN are those of the state before. -/
@[simp] theorem State.inProgram_present (s : State) : s.present.inProgram = s.inProgram := rfl

@[simp] theorem State.fetch_present (s : State) : s.present.fetch = s.fetch := rfl

end Sys2Proof.Machine
end

