-- ==== Sys2Proof/Tests/Slice0.lean ====
section
/-! SUPPORT. Tests: decoding of words written out from spec/30_encoding.md, one step of each instruction against the vectors of spec/95_test_vectors.md, and for every obligation with hypotheses a state and operands that meet them. -/

open Sys2Proof Sys2Proof.Machine

namespace Sys2Proof.Tests

/-! ### Well-formedness -/

/-- R95: 5127 and 912F execute, but are not the canonical words; 5120 and 9120 are. -/
theorem test_canonical_refuses : (Instr.seReg 1 2 7).canonical = false ∧ (Instr.sneReg 1 2 15).canonical = false ∧
    (Instr.seReg 1 2 0).canonical = true ∧ (Instr.sneReg 1 2 0).canonical = true := by decide

/-- R93: no operand value is ill formed; what a field cannot hold cannot be written. -/
theorem test_wellFormed : (Instr.drw 15 15 15).wellFormed = true ∧ (Instr.jpV0 0xFFF).wellFormed = true := by decide

/-! ### Decoding: words written out from the masks of R97 and the vectors of 95_test_vectors.md -/

theorem test_decode_display : decodeWord 0x00E0 = some .cls ∧ decodeWord 0xD015 = some (.drw 0 1 5) := by decide

theorem test_decode_jumps : decodeWord 0x00EE = some .ret ∧ decodeWord 0x1ABC = some (.jp 0xABC) ∧
    decodeWord 0x2ABC = some (.call 0xABC) ∧ decodeWord 0xBFFF = some (.jpV0 0xFFF) := by decide

theorem test_decode_skips : decodeWord 0x3A42 = some (.seImm 0xA 0x42) ∧ decodeWord 0x4A42 = some (.sneImm 0xA 0x42) ∧
    decodeWord 0x5127 = some (.seReg 1 2 7) ∧ decodeWord 0x912F = some (.sneReg 1 2 0xF) := by decide

theorem test_decode_immediates : decodeWord 0x6FAB = some (.ldImm 0xF 0xAB) ∧ decodeWord 0x70FF = some (.addImm 0 0xFF) ∧
    decodeWord 0xC20F = some (.rnd 2 0x0F) := by decide

theorem test_decode_group8 : decodeWord 0x8120 = some (.ldReg 1 2) ∧ decodeWord 0x8121 = some (.orReg 1 2) ∧
    decodeWord 0x8122 = some (.andReg 1 2) ∧ decodeWord 0x8123 = some (.xorReg 1 2) ∧ decodeWord 0x8124 = some (.addReg 1 2) ∧
    decodeWord 0x8125 = some (.subReg 1 2) ∧ decodeWord 0x8126 = some (.shr 1 2) ∧ decodeWord 0x8127 = some (.subnReg 1 2) ∧
    decodeWord 0x812E = some (.shl 1 2) := by decide

theorem test_decode_index : decodeWord 0xAFFF = some (.ldI 0xFFF) ∧ decodeWord 0xF11E = some (.addI 1) ∧
    decodeWord 0xFA29 = some (.ldF 0xA) ∧ decodeWord 0xF433 = some (.ldB 4) ∧ decodeWord 0xF155 = some (.storeRegs 1) ∧
    decodeWord 0xF265 = some (.loadRegs 2) := by decide

theorem test_decode_io : decodeWord 0xE39E = some (.skp 3) ∧ decodeWord 0xE0A1 = some (.sknp 0) ∧
    decodeWord 0xF107 = some (.ldVxDt 1) ∧ decodeWord 0xF30A = some (.ldVxK 3) ∧ decodeWord 0xF215 = some (.ldDtVx 2) ∧
    decodeWord 0xF218 = some (.ldStVx 2) := by decide

/-- V2.13, V5.8, V6.2, P6, P9: unsupported words. -/
theorem test_decode_unsupported : decodeWord 0x0000 = none ∧ decodeWord 0x0123 = none ∧ decodeWord 0x01E0 = none ∧
    decodeWord 0x8018 = none ∧ decodeWord 0x801F = none ∧ decodeWord 0xE09F = none ∧ decodeWord 0xF01F = none ∧
    decodeWord 0xFF81 = none := by decide

/-- R60: the byte at the lower address is the more significant; what follows the word is left. -/
theorem test_decodeBytes : decodeBytes [0x60, 0x05, 0x70] = .ok (.ldImm 0 0x05, [0x70]) ∧ decodeBytes [0x12] = .error .truncated ∧
    decodeBytes [0x00, 0x00] = .error (.unsupportedInstruction 0x0000) ∧ decodeTableWord 16 0xD005 = some (.drw 0 0 5) :=
  ⟨rfl, rfl, rfl, rfl⟩

/-! ### One step -/

/-- The reset state, with an instruction step asked for and the given input lines. -/
def ready (m : Sample) : State := { State.reset with script := [{ request := .doStep, sample := m }] }

/-- The reset state with nothing on the input lines. -/
def idle : State := ready Sample.quiet

/-- V[x] and V[y] loaded. -/
def two (x y : Reg) (a b : Byte) : State := (idle.setReg x a).setReg y b

/-- Input lines with the keys of a mask down and the event of one of them. -/
def keys (mask : BitVec 16) (event : Option (Fin 16)) : Sample := { keysDown := mask, keyEvent := event, randByte := 0 }

/-- The word is placed at PC, one step is made, and the state after is as p says. -/
def runs (w : Nat) (s : State) (p : State → Bool) : Bool :=
  match step (s.withFetchWord 16 w) with
  | .next t => p t
  | _ => false

/-- The state a result holds. -/
def got : Result State → State
  | .next t => t
  | .fault _ => State.reset
  | .refused _ => State.reset

/-- V0.1 -/
theorem test_cls : runs 0x00E0 (idle.setDisp (State.reset.disp.flip 31 63))
    (fun t => t.disp.pixel 31 63 == false && t.pc == 0x202) = true := by decide

/-- V0.4: coordinates 255, 255 and the byte F0. -/
theorem test_drw_wraps : runs 0xD011 ((two 0 1 0xFF 0xFF).setI 0x50) (fun t => t.disp.pixel 31 63 && t.disp.pixel 31 0 &&
    t.disp.pixel 31 2 && t.disp.pixel 31 3 == false && t.reg vf == 0) = true := by decide

/-- V0.6: a collision on part of a sprite. -/
theorem test_drw_collides : runs 0xD001 ((idle.setI 0x50).setDisp (State.reset.disp.flip 0 0)) (fun t => t.disp.pixel 0 0 == false &&
    t.disp.pixel 0 1 && t.disp.pixel 0 3 && t.reg vf == 1) = true := by decide

/-- V1.1 -/
theorem test_jp : runs 0x1ABC idle (fun t => t.pc == 0xABC) = true := by decide

/-- V1.5 -/
theorem test_call : runs 0x2ABC idle (fun t => t.stack[0] == 0x202 && t.sp.val == 1 && t.pc == 0xABC) = true := by decide

/-- P5: the seventeenth call. -/
theorem test_call_overflow : runs 0x2200 { idle with sp := 16 } (fun t => t.status.haltCause == .stackOverflow &&
    t.status.haltPc == 0x200 && t.status.haltInsn == some 0x2200 && t.pc == 0x200 && t.sp.val == 16) = true := by decide

/-- V1.7: SP = 2, STACK[0] = 0202, STACK[1] = 0300. -/
def inCall : State := { idle with sp := 2, stack := (State.reset.stack.set 0 0x202).set 1 0x300 }

/-- V1.7 -/
theorem test_ret : runs 0x00EE inCall (fun t => t.pc == 0x300 && t.sp.val == 1 && t.stack[1] == 0x300) = true := by decide

/-- V1.9 -/
theorem test_ret_underflow : runs 0x00EE idle (fun t => t.status.run == .halted && t.haltCode == 3 && t.status.haltPc == 0x200 &&
    t.status.haltInsn == some 0x00EE && t.pc == 0x200) = true := by decide

/-- V1.10 -/
theorem test_se_imm : runs 0x3A42 (idle.setReg 0xA 0x42) (fun t => t.pc == 0x204) = true ∧
    runs 0x3A42 (idle.setReg 0xA 0x43) (fun t => t.pc == 0x202) = true := by decide

/-- V1.11 -/
theorem test_sne_imm : runs 0x4A42 (idle.setReg 0xA 0x42) (fun t => t.pc == 0x202) = true ∧
    runs 0x4A42 (idle.setReg 0xA 0x43) (fun t => t.pc == 0x204) = true := by decide

/-- V1.12 -/
theorem test_se_reg : runs 0x5127 (two 1 2 7 7) (fun t => t.pc == 0x204) = true ∧
    runs 0x5120 (two 1 2 7 8) (fun t => t.pc == 0x202) = true := by decide

/-- V1.13 -/
theorem test_sne_reg : runs 0x912F (two 1 2 7 8) (fun t => t.pc == 0x204) = true ∧
    runs 0x9120 (two 1 2 7 7) (fun t => t.pc == 0x202) = true := by decide

/-- V1.15: no 12-bit mask. -/
theorem test_jp_v0 : runs 0xBFFF (idle.setReg 0 0xFF) (fun t => t.pc == 0x10FE) = true := by decide

/-- V2.1 -/
theorem test_ld_imm : runs 0x6FAB idle (fun t => t.reg vf == 0xAB && t.pc == 0x202) = true := by decide

/-- V2.2: no carry flag. -/
theorem test_add_imm : runs 0x7001 (two 0 vf 0xFF 0xAA) (fun t => t.reg 0 == 0 && t.reg vf == 0xAA) = true := by decide

/-- V2.3 -/
theorem test_ld_reg : runs 0x8010 (two 0 1 0x11 0x99) (fun t => t.reg 0 == 0x99 && t.reg 1 == 0x99) = true := by decide

/-- V2.3 -/
theorem test_or : runs 0x8011 ((two 0 1 0xF0 0x0F).setReg vf 0xAA) (fun t => t.reg 0 == 0xFF && t.reg vf == 0xAA) = true := by decide

/-- V2.3 -/
theorem test_and : runs 0x8012 ((two 0 1 0xF0 0x3C).setReg vf 0xAA) (fun t => t.reg 0 == 0x30 && t.reg vf == 0xAA) = true := by decide

/-- V2.3 -/
theorem test_xor : runs 0x8013 ((two 0 1 0xFF 0x0F).setReg vf 0xAA) (fun t => t.reg 0 == 0xF0 && t.reg vf == 0xAA) = true := by decide

/-- S9, V2.4 -/
theorem test_add_carries : runs 0x8014 (two 0 1 0xFF 0x02) (fun t => t.reg 0 == 0x01 && t.reg vf == 1) = true := by decide

/-- V2.8: the destination is VF, and the result wins. -/
theorem test_add_into_vf : runs 0x8F14 (two vf 1 0x01 0x02) (fun t => t.reg vf == 0x03) = true := by decide

/-- V2.5 -/
theorem test_sub_borrows : runs 0x8015 (two 0 1 0x03 0x05) (fun t => t.reg 0 == 0xFE && t.reg vf == 0) = true := by decide

/-- V2.10: the second operand is VF, read before the flag. -/
theorem test_sub_from_vf : runs 0x80F5 (two 0 vf 0x05 0x03) (fun t => t.reg 0 == 0x02 && t.reg vf == 1) = true := by decide

/-- V2.9 -/
theorem test_shr : runs 0x8016 (two 0 1 0x81 0x55) (fun t => t.reg 0 == 0x40 && t.reg vf == 1 && t.reg 1 == 0x55) = true := by decide

/-- V2.6 -/
theorem test_subn : runs 0x8017 (two 0 1 0x03 0x05) (fun t => t.reg 0 == 0x02 && t.reg vf == 1) = true := by decide

/-- V2.7: equal operands make no borrow. -/
theorem test_subn_same : runs 0x8007 (idle.setReg 0 0x37) (fun t => t.reg 0 == 0x00 && t.reg vf == 1) = true := by decide

/-- V2.11 -/
theorem test_shl : runs 0x801E (two 0 1 0x81 0x55) (fun t => t.reg 0 == 0x02 && t.reg vf == 1 && t.reg 1 == 0x55) = true := by decide

/-- V2.12 -/
theorem test_rnd : runs 0xC20F (ready { keysDown := 0, keyEvent := none, randByte := 0xA7 }) (fun t => t.reg 2 == 0x07) = true := by decide

/-- V4.1 -/
theorem test_ld_i : runs 0xAFFF idle (fun t => t.i == 0xFFF && t.pc == 0x202) = true := by decide

/-- V4.2 -/
theorem test_add_i : runs 0xF11E ((two 1 vf 0x01 0xAA).setI 0xFFFF) (fun t => t.i == 0x0000 && t.reg vf == 0xAA) = true := by decide

/-- V4.4: no mask on the digit. -/
theorem test_ld_f : runs 0xF029 (idle.setReg 0 0xFF) (fun t => t.i == 0x054B) = true := by decide

/-- V4.6 -/
theorem test_ld_b : runs 0xF033 ((idle.setReg 0 0xFF).setI 0xFFD) (fun t => t.readByte 0xFFD == 2 && t.readByte 0xFFE == 5 &&
    t.readByte 0xFFF == 5 && t.i == 0xFFD) = true := by decide

/-- V4.6 -/
theorem test_ld_b_past_memory : runs 0xF033 ((idle.setReg 0 0xFF).setI 0xFFE) (fun t => t.haltCode == 4 &&
    t.status.haltAddr == some 0x1000 && t.readByte 0xFFE == 0 && t.pc == 0x200) = true := by decide

/-- V4.10, V4.7: a store into the font succeeds; I keeps its value. -/
theorem test_store_regs : runs 0xF055 (idle.setI 0x050) (fun t => t.readByte 0x050 == 0 && t.readByte 0x051 == 0x90 && t.i == 0x050) =
    true := by decide

/-- V4.7 -/
theorem test_store_regs_past_memory : runs 0xF155 ((two 0 1 0xAB 0xCD).setI 0xFFF) (fun t => t.haltCode == 4 &&
    t.status.haltAddr == some 0x1000 && t.readByte 0xFFF == 0 && t.pc == 0x200) = true := by decide

/-- The font's first bytes, F0 90 90, loaded: R34, R195. -/
theorem test_load_regs : runs 0xF165 ((idle.setReg 2 0x77).setI 0x050) (fun t => t.reg 0 == 0xF0 && t.reg 1 == 0x90 && t.reg 2 == 0x77 &&
    t.i == 0x050) = true := by decide

/-- V4.9: the reported address is I itself when I is past memory. -/
theorem test_load_regs_past_memory : runs 0xF065 (idle.setI 0xFFFF) (fun t => t.haltCode == 4 && t.status.haltAddr == some 0xFFFF) =
    true := by decide

/-- V5.1 -/
theorem test_skp : runs 0xE09E ((ready (keys 0x0020 (some 5))).setReg 0 0x05) (fun t => t.pc == 0x204) = true ∧
    runs 0xE09E ((ready (keys 0xFFFF (some 0))).setReg 0 0x15) (fun t => t.pc == 0x202) = true := by decide

/-- V5.2 -/
theorem test_sknp : runs 0xE0A1 ((ready (keys 0x0020 (some 5))).setReg 0 0x05) (fun t => t.pc == 0x202) = true ∧
    runs 0xE0A1 ((ready (keys 0xFFFF (some 0))).setReg 0 0x15) (fun t => t.pc == 0x204) = true := by decide

/-- V5.3 -/
theorem test_ld_k : runs 0xF30A (ready (keys 0x0800 (some 0xB))) (fun t => t.reg 3 == 0x0B && t.pc == 0x202) = true := by decide

/-- V5.3 -/
theorem test_ld_k_waits : runs 0xF30A (idle.setReg 3 0x77) (fun t => t.reg 3 == 0x77 && t.pc == 0x200) = true := by decide

/-- V5.4 -/
theorem test_ld_vx_dt : runs 0xF107 (idle.setDt 0x2C) (fun t => t.reg 1 == 0x2C && t.dt == 0x2C) = true := by decide

/-- V5.5 -/
theorem test_ld_dt_vx : runs 0xF015 (idle.setReg 0 0x05) (fun t => t.dt == 0x05 && t.st == 0) = true := by decide

/-- V5.6 -/
theorem test_ld_st_vx : runs 0xF218 (idle.setReg 2 0x1E) (fun t => t.st == 0x1E && t.soundActive && t.dt == 0) = true := by decide

/-- P6: an unsupported word. -/
theorem test_unsupported : runs 0xFF81 idle (fun t => t.diag == some { pc := 0x200, word := 0xFF81 } && t.pc == 0x202 &&
    t.status.run == .running) = true := by decide

/-- What one step of s leaves is as p says. -/
def steps (s : State) (p : State → Bool) : Bool :=
  match step s with
  | .next t => p t
  | _ => false

/-- The state before a step of the host's choice. -/
def asked (s : State) (r : Request) : State := { s with script := [{ request := r, sample := Sample.quiet }] }

/-- V6.1: the reset state holds no program, and its first instruction step ends the run. -/
theorem test_empty_program : steps idle (fun t => t.haltCode == 1 && t.status.haltPc == 0x200 && t.pc == 0x200) = true := by decide

/-- V5.7 -/
theorem test_tick : steps (asked ((State.reset.setDt 0x01).setSt 0x03) .doTick) (fun t => t.dt == 0 && t.st == 2 && t.pc == 0x200) = true ∧
    steps (asked State.reset .doTick) (fun t => t.dt == 0 && t.st == 0) = true := by decide

/-- S7, R270: the program 00E0 loaded; the state it starts from. -/
theorem test_reset_load : steps (asked (State.reset.setDt 7) (.resetLoad [0x00, 0xE0] defaultParams)) (fun t => t.dt == 0 &&
    t.romSize.val == 2 && t.readByte 0x201 == 0xE0 && t.pc == 0x200 && t.warnTooLarge == false) = true := by decide

/-- Parameters whose background is E0 at 0206 and 00 elsewhere (D2). -/
def unevenParams : MemParams := { defaultParams with exceptions := [(0x206, 0xE0)] }

/-- P9, third step: the program's last byte is fetched together with the background byte after it, here one of its own value. -/
theorem test_background : steps (asked { (State.launch [0x12, 0x03, 0x00, 0x61, 0x07, 0x00] unevenParams).setDisp
    (State.reset.disp.flip 0 0) with pc := 0x205 } .doStep) (fun t => t.disp.pixel 0 0 == false && t.pc == 0x207 && t.diag == none &&
    t.readByte 0x207 == 0x00) = true := by decide

/-- V6.5: a halted core does nothing. -/
theorem test_halted : steps (asked ((State.reset.setSt 5).raise .programExhausted none none) .doTick)
    (fun t => t.st == 5 && t.soundActive && t.status.run == .halted) = true := by decide

/-! ### Every obligation's hypotheses are met -/

/-- A core that runs with PC at the last word of a full program, the word there being w. -/
def atTop (pc : Word) : State := { idle with pc := pc, romSize := 3584 }

/-- A core halted on an empty stack. -/
def halted : State := State.reset.raiseIn .ret .stackUnderflow none

theorem witness_EncodeOfDecode : decodeWord 0x512F = some (.seReg 1 2 15) ∧ decodeWord 0x8FF6 = some (.shr 15 15) := by decide

/-- At both ends of the program's range. -/
theorem witness_StepRunsDecodedInstruction : ∀ s ∈ [idle.withFetchWord 16 0x8014, (atTop 0xFFE).withFetchWord 16 0x8014],
    s.status.run = .running ∧ s.nextInput.request = .doStep ∧ 0x200 ≤ s.pc.toNat ∧ s.pc.toNat < 0x200 + s.romSize.val ∧
      s.pc.toNat + 1 < 4096 ∧
      decodeWord (BitVec.ofNat 16 ((s.readByte s.pc.toNat).toNat * 256 + (s.readByte (s.pc.toNat + 1)).toNat)) = some (.addReg 0 1) := by
  decide

theorem witness_FetchIsBigEndian : (atTop 0xFFE).pc.toNat + 1 < 4096 ∧ (atTop 0xFFF).pc.toNat = 0xFFF := by decide

/-- Just below the program, and just past it. -/
theorem witness_ProgramExhaustionHalts : ∀ s ∈ [{ atTop 0x1FF with romSize := 2 }, { atTop 0x202 with romSize := 2 }],
    s.status.run = .running ∧ s.nextInput.request = .doStep ∧ (s.pc.toNat < 0x200 ∨ 0x200 + s.romSize.val ≤ s.pc.toNat) := by decide

theorem witness_FetchPastMemoryHalts : (atTop 0xFFF).status.run = .running ∧ (atTop 0xFFF).nextInput.request = .doStep ∧
    (atTop 0xFFF).pc = 0xFFF ∧ (atTop 0xFFF).romSize.val = 3584 := by decide

theorem witness_UnsupportedWordIsNoOp : ∃ s : State, s.status.run = .running ∧ s.nextInput.request = .doStep ∧ s.inProgram = true ∧
    s.fetch = .ok 0x0000 ∧ decodeWord 0x0000 = none :=
  ⟨atTop 0xFFE, rfl, rfl, rfl, rfl, rfl⟩

/-- One state for each of the three fatal conditions. -/
theorem witness_FatalHaltIsPrecise :
    (∃ t, exec .ret idle = .next t ∧ t.status ≠ idle.status) ∧
    (∃ t, exec (.call 0x200) { idle with sp := 16 } = .next t ∧ t.status ≠ idle.status) ∧
    ∃ t, exec (.ldB 0) (idle.setI 0xFFE) = .next t ∧ t.status ≠ idle.status :=
  ⟨⟨_, rfl, by decide⟩, ⟨_, rfl, by decide⟩, ⟨_, rfl, by decide⟩⟩

/-- At the last address where LD B runs, and the first where it raises. -/
theorem witness_InstructionsHaltExactlyWhen :
    (∃ t, exec (.ldB 0) (idle.setI 0xFFD) = .next t ∧ t.status.run = .running) ∧
    (∃ t, exec (.ldB 0) (idle.setI 0xFFE) = .next t ∧ t.status.run = .halted) ∧ idle.status.run = .running :=
  ⟨⟨_, rfl, rfl⟩, ⟨_, rfl, rfl⟩, rfl⟩

theorem witness_HaltedUntilReset :
    ((asked halted .doStep).status.run = .halted ∧ (asked halted .doStep).nextInput.request = .doStep) ∧
    ((asked halted .doTick).status.run = .halted ∧ (asked halted .doTick).nextInput.request = .doTick) ∧
    ∃ t, step (asked halted (.resetLoad [] defaultParams)) = .next t ∧ t.status.run = .running :=
  ⟨⟨rfl, rfl⟩, ⟨rfl, rfl⟩, _, rfl, rfl⟩

/-- One timer at each side of 0. -/
theorem witness_TickLowersBothTimers : ∃ s : State, s.status.run = .running ∧ s.nextInput.request = .doTick ∧ 0 < s.dt.toNat ∧ s.st = 0 :=
  ⟨asked (State.reset.setDt 1) .doTick, rfl, rfl, by decide, rfl⟩

/-- S6: five ticks after DT = 5. -/
theorem witness_TicksCountDownToZero : ∃ s : State, s.status.run = .running ∧ s.dt = 5 ∧
    s.script = List.replicate 5 { request := .doTick, sample := Sample.quiet } ++ [] :=
  ⟨{ State.reset.setDt 5 with script := List.replicate 5 { request := .doTick, sample := Sample.quiet } }, rfl, rfl, rfl⟩

/-- V6.4: an image of the largest size, one that is too large, and a small one, whose clauses about memory are met by k = 0;
a background of one byte and one of two. -/
theorem witness_ResetLoadGivesLaunchState : ∀ n ∈ [2, 3584, 3585], ∀ p ∈ [defaultParams, unevenParams],
    (asked halted (.resetLoad (List.replicate n 0x6A) p)).nextInput.request = .resetLoad (List.replicate n 0x6A) p ∧
      0 < (List.replicate n (0x6A : Byte)).length := by
  intro n hn p _
  refine ⟨rfl, ?_⟩
  rw [List.length_replicate]
  fin_cases hn <;> decide

/-- Inside two calls, with RET next; and halted on an empty stack with a program loaded. -/
theorem witness_StepKeepsInvariant : (∃ t, (inCall.withFetchWord 16 0x00EE).Inv ∧ step (inCall.withFetchWord 16 0x00EE) = .next t) ∧
    ∃ t, State.Inv (asked { halted with romSize := 2 } .doStep) ∧ step (asked { halted with romSize := 2 } .doStep) = .next t := by
  refine ⟨⟨_, ⟨by decide, ⟨rfl, rfl⟩, ?_, by show (0x200 : Word).toNat ≤ _; decide⟩, rfl⟩,
    _, ⟨by decide, ⟨rfl, rfl, rfl, ?_, rfl⟩, ?_, by show (0x200 : Word).toNat ≤ _; decide⟩, rfl⟩
  · unfold State.StackOk
    decide
  · decide
  · unfold State.StackOk
    decide

/-- Inside two calls, with a jump to an even address next. -/
theorem witness_PcStaysEvenWithEvenTargets : ∃ t, (inCall.withFetchWord 16 0x1ABC).EvenOk ∧ step (inCall.withFetchWord 16 0x1ABC) = .next t ∧
    ∀ w i, (inCall.withFetchWord 16 0x1ABC).nextInput.request = .doStep → (inCall.withFetchWord 16 0x1ABC).fetch = .ok w →
      decodeWord w = some i → i.EvenTarget (inCall.withFetchWord 16 0x1ABC) := by
  refine ⟨_, ⟨by decide, by decide⟩, rfl, fun w i _ hf hd => ?_⟩
  have hw : 0x1ABC = w := Except.ok.inj hf
  subst hw
  have hi : Instr.jp 0xABC = i := Option.some.inj hd
  subst hi
  show (0xABC : Addr12).toNat % 2 = 0
  decide

theorem witness_OnlyLoadSetsProgramSize : ((asked State.reset .doStep).nextInput.request = .doStep ∧ ∃ t, step (asked State.reset .doStep) = .next t) ∧
    (asked State.reset .doTick).nextInput.request = .doTick ∧ ∃ t, step (asked State.reset .doTick) = .next t :=
  ⟨⟨rfl, _, rfl⟩, rfl, _, rfl⟩

/-- A CALL at depth 2 and a RET at depth 2, with entry 0 live before and after. -/
theorem witness_LiveReturnAddressesAreKept : ∀ w ∈ [0x2ABC, 0x00EE], (inCall.withFetchWord 16 w).nextInput.request = .doStep ∧
    step (inCall.withFetchWord 16 w) = .next (got (step (inCall.withFetchWord 16 w))) ∧
    (0 : Fin 16).val < (inCall.withFetchWord 16 w).sp.val ∧ (0 : Fin 16).val < (got (step (inCall.withFetchWord 16 w))).sp.val := by
  intro w hw
  fin_cases hw <;> exact ⟨rfl, rfl, by decide, by decide⟩

/-- A flag writer, the draw and the register load. -/
theorem witness_RegisterWriters :
    (∃ t, exec (.subReg 0 1) idle = .next t ∧ t.reg vf ≠ idle.reg vf) ∧
    (∃ t, exec (.ldImm 3 7) idle = .next t ∧ t.reg 3 ≠ idle.reg 3) ∧
    ∃ t, exec (.loadRegs 1) (idle.setI 0x050) = .next t ∧ t.reg 1 ≠ idle.reg 1 :=
  ⟨⟨_, rfl, by decide⟩, ⟨_, rfl, by decide⟩, ⟨_, rfl, by decide⟩⟩

theorem witness_IndexAndTimerWriters :
    (∃ t, exec (.ldF 0) idle = .next t ∧ t.i ≠ idle.i) ∧ (∃ t, exec (.ldDtVx 0) (idle.setReg 0 1) = .next t ∧ t.dt ≠ idle.dt) ∧
    ∃ t, exec (.ldStVx 0) (idle.setReg 0 1) = .next t ∧ t.st ≠ idle.st :=
  ⟨⟨_, rfl, by decide⟩, ⟨_, rfl, by decide⟩, ⟨_, rfl, by decide⟩⟩

theorem witness_StackWriters : (∃ t, exec (.call 0x300) idle = .next t ∧ ¬idle.SameStack t) ∧ ∃ t, exec .ret inCall = .next t ∧ ¬inCall.SameStack t :=
  ⟨⟨_, rfl, fun h => absurd h.1 (by decide)⟩, ⟨_, rfl, fun h => absurd h.1 (by decide)⟩⟩

theorem witness_MemoryWriters :
    (∃ t, exec (.ldB 0) ((idle.setReg 0 0xFF).setI 0x300) = .next t ∧ ¬idle.SameMem t) ∧
    ∃ t, exec (.storeRegs 0) (idle.setI 0x050) = .next t ∧ ¬idle.SameMem t :=
  ⟨⟨_, rfl, fun h => absurd (h 0x300) (by decide)⟩, ⟨_, rfl, fun h => absurd (h 0x050) (by decide)⟩⟩

theorem witness_DisplayWriters :
    (∃ t, exec (.drw 0 0 1) (idle.setI 0x050) = .next t ∧ ¬(idle.setI 0x050).SameDisp t) ∧
    ∃ t, exec .cls (idle.setDisp (State.reset.disp.flip 3 7)) = .next t ∧ ¬(idle.setDisp (State.reset.disp.flip 3 7)).SameDisp t :=
  ⟨⟨_, rfl, fun h => absurd (h 0 0) (by decide)⟩, ⟨_, rfl, fun h => absurd (h 3 7) (by decide)⟩⟩

/-- RND with other keys, SKP with another random byte, and an instruction that reads no line with all of them different. -/
theorem witness_InputsReadOnlyByTheirInstructions :
    (∃ t, exec (.rnd 2 0x0F) idle = .next t ∧ idle.sample.randByte = (keys 0xFFFF (some 0)).randByte ∧
      (∀ x, Instr.rnd 2 0x0F ≠ .skp x ∧ Instr.rnd 2 0x0F ≠ .sknp x) ∧ ∀ x, Instr.rnd 2 0x0F ≠ .ldVxK x) ∧
    ∃ t, exec .cls idle = .next t ∧ (∀ x nn, Instr.cls ≠ .rnd x nn) ∧ (∀ x, Instr.cls ≠ .skp x ∧ Instr.cls ≠ .sknp x) ∧
      ∀ x, Instr.cls ≠ .ldVxK x := by
  refine ⟨⟨_, rfl, rfl, ?_, ?_⟩, ⟨_, rfl, ?_, ?_, ?_⟩⟩ <;> simp

/-- n = 0 with I past memory; the last address where two rows are read; three rows there; pixels under the sprite and beside it, set
and clear. -/
theorem witness_DrawXorsSprite :
    ((0 : Nibble) = 0 ∧ 4096 ≤ (idle.setI 0x1234).i.toNat) ∧ (idle.setI 0xFFE).i.toNat + (2 : Nibble).toNat - 1 < 4096 ∧
    (1 ≤ (3 : Nibble).toNat ∧ 4096 ≤ (idle.setI 0xFFE).i.toNat + (3 : Nibble).toNat - 1) ∧
    ((idle.setI 0x050).SpriteHit 63 31 1 31 0 ∧ idle.disp.pixel 31 0 = false) ∧
    ((idle.setI 0x050).SpriteHit 0 0 1 0 0 ∧ (State.reset.disp.flip 0 0).pixel 0 0 = true) ∧ ¬(idle.setI 0x050).SpriteHit 0 0 1 0 4 := by
  refine ⟨by decide, by decide, by decide, ⟨⟨0, 1, by decide, by decide, by decide, by decide, by decide⟩, by decide⟩,
    ⟨⟨0, 0, by decide, by decide, by decide, by decide, by decide⟩, by decide⟩, ?_⟩
  rintro ⟨k, j, hk, hj, -, hc, hb⟩
  have h4 : (4 : Fin 64).val = 4 := rfl
  have hk0 : k = 0 := by omega
  have hj4 : j = 4 := by omega
  subst hk0 hj4
  exact absurd hb (by decide)

theorem witness_SecondDrawRestoresDisplay : ∃ t u, (0 : Reg) ≠ vf ∧ (idle.setI 0xFFE).i.toNat + (2 : Nibble).toNat ≤ 4096 ∧
    exec (.drw 0 0 2) (idle.setI 0xFFE) = .next t ∧ exec (.drw 0 0 2) t = .next u :=
  ⟨_, _, by decide, by decide, rfl, rfl⟩

theorem witness_DrawClearDrawEqualsDraw : ∃ t u v, (0 : Reg) ≠ vf ∧ (idle.setI 0x050).i.toNat + (5 : Nibble).toNat ≤ 4096 ∧
    (∀ r c, (idle.setI 0x050).disp.pixel r c = false) ∧
    exec (.drw 0 0 5) (idle.setI 0x050) = .next t ∧ exec .cls t = .next u ∧ exec (.drw 0 0 5) u = .next v :=
  ⟨_, _, _, by decide, by decide, Display.pixel_clear, rfl, rfl, rfl⟩

/-- The last free entry, and the full stack. -/
theorem witness_CallPushesReturnAddress : State.sp { idle with sp := 15 } < 16 ∧ (State.sp { idle with sp := 16 }).val = 16 := by decide

/-- The full stack, one entry, and the empty stack. -/
theorem witness_ReturnPopsAddress : (State.sp { idle with sp := 16 }).val = (15 : Fin 16).val + 1 ∧
    (State.sp { idle with sp := 1 }).val = (0 : Fin 16).val + 1 ∧ idle.sp.val = 0 ∧
    inCall.sp.val = (1 : Fin 16).val + 1 ∧ inCall.StackOk := by
  unfold State.StackOk
  decide

/-- A subroutine at 300 that executes one word before it returns. -/
theorem witness_ReturnMatchesItsCall : ∃ a b c, State.sp { idle with romSize := 3584 } < 16 ∧
    exec (.call 0x300) { idle with romSize := 3584 } = .next a ∧ InsideCall 0 a b ∧ b.pc = 0x302 ∧ b.sp.val = 0 + 1 ∧ exec .ret b = .next c := by
  refine ⟨_, got (step (got (exec (.call 0x300) { idle with romSize := 3584 }))), _, by decide, rfl,
    .next (.start _ (by decide)) (.inl rfl) rfl (by decide), by decide, by decide, rfl⟩

theorem witness_SkipsOnImmediate : (idle.setReg 0xA 0x42).reg 0xA = 0x42 ∧ (idle.setReg 0xA 0x43).reg 0xA ≠ 0x42 := by decide

theorem witness_SkipsOnRegisters : (two 1 2 7 7).reg 1 = (two 1 2 7 7).reg 2 ∧ (two 1 2 7 8).reg 1 ≠ (two 1 2 7 8).reg 2 := by decide

/-- VF as the destination and not, a sum of 255 and one of 256. -/
theorem witness_FlaggedResults : (0 : Reg) ≠ vf ∧ ¬255 < ((two 0 1 0xFE 0x01).reg 0).toNat + ((two 0 1 0xFE 0x01).reg 1).toNat ∧
    255 < ((two 0 1 0xFF 0x01).reg 0).toNat + ((two 0 1 0xFF 0x01).reg 1).toNat := by decide

theorem witness_RandomIsMasked : (ready { keysDown := 0, keyEvent := none, randByte := 0x5C }).nextInput.sample.randByte = 0x5C := by decide

/-- The last address where three digits fit, and the next. -/
theorem witness_BcdStoresDigits : (idle.setI 0xFFD).i.toNat + 2 < 4096 ∧ 4096 ≤ (idle.setI 0xFFE).i.toNat + 2 := by decide

/-- At the last byte of memory: one register fits, two do not; a register above the last one of the load. -/
theorem witness_StoreAndLoadRegisters : (idle.setI 0xFFF).i.toNat + (0 : Reg).val < 4096 ∧ 4096 ≤ (idle.setI 0xFFF).i.toNat + (1 : Reg).val ∧
    (0 : Reg) ≤ 0 ∧ (0 : Reg) < 15 := by decide

/-- P7: a store over the next instruction, here at the last place where it fits. -/
theorem witness_StoredBytesAreFetchedNext : ∃ t, 1 ≤ (1 : Reg).val ∧ ((atTop 0xFFC).setI 0xFFE).i = ((atTop 0xFFC).setI 0xFFE).pc + 2 ∧
    ((atTop 0xFFC).setI 0xFFE).i.toNat + (1 : Reg).val < 4096 ∧ exec (.storeRegs 1) ((atTop 0xFFC).setI 0xFFE) = .next t :=
  ⟨_, by decide, by decide, by decide, rfl⟩

/-- A state whose current input lines show m. -/
def showing (m : Sample) : State := { State.reset with sample := m }

/-- Key F down, key F up, and a code above F. -/
theorem witness_SkipsOnKey :
    (((showing (keys 0x8000 (some 0xF))).setReg 0 0xF).reg 0).toNat ≤ 0xF ∧
    (showing (keys 0x8000 (some 0xF))).sample.keysDown.getLsbD 0xF = true ∧ (showing (keys 0x7FFF (some 0))).sample.keysDown.getLsbD 0xF = false ∧
    0xF < (((showing (keys 0xFFFF (some 0))).setReg 0 0x10).reg 0).toNat := by decide

theorem witness_KeyWaitReissues : (showing Sample.quiet).sample.keyEvent = none ∧ (showing (keys 0x8000 (some 0xF))).sample.keyEvent = some 0xF := by
  decide

/-- No key down, and key B down. -/
theorem witness_KeyWaitEndsWithKeyDown : ∀ m ∈ [Sample.quiet, keys 0x0800 (some 0xB)], m.Coherent ∧
    ∃ t, exec (.ldVxK 3) (showing m) = .next t := by
  intro m hm
  fin_cases hm
  · exact ⟨⟨by decide, fun k hk => by cases hk⟩, _, rfl⟩
  · exact ⟨⟨by decide, fun k hk => by cases hk; decide⟩, _, rfl⟩

end Sys2Proof.Tests
end

section
/-! PROOFS. What an instruction and a step can do, said once as two inductive relations, and the statements about the state's
invariants, its writers and its inputs (spec/10_state.md) derived from them. -/

namespace Sys2Proof

/-! ### Memory as the parameters give it (R31, R44) -/

/-- The parameters' byte at an address of the font area. -/
theorem MemParams.byteAt_font (p : MemParams) {k : Nat} (h : k < 80) : p.byteAt (0x050 + k) = p.font[k] := by
  have hin : 0x050 ≤ 0x050 + k ∧ 0x050 + k < 0x0A0 := by omega
  rw [MemParams.byteAt, dif_pos hin]
  simp only [Nat.add_sub_cancel_left]

/-- The parameters' byte at an address outside the font area. -/
theorem MemParams.byteAt_background (p : MemParams) {a : Nat} (h : a < 0x050 ∨ 0x0A0 ≤ a) : p.byteAt a = p.background a := by
  rw [MemParams.byteAt, dif_neg (by omega)]

/-! ### Input lines (R40, R41) -/

/-- The instruction reads the same on the input lines of both samples: RND the random byte, SKP and SKNP keys_down, LD Vx,K key_event,
every other instruction nothing (R40, R41). -/
structure Instr.ReadsAlike (i : Instr) (a b : Sample) : Prop where
  randByte : a.randByte = b.randByte ∨ ∀ x nn, i ≠ .rnd x nn
  keysDown : a.keysDown = b.keysDown ∨ ∀ x, i ≠ .skp x ∧ i ≠ .sknp x
  keyEvent : a.keyEvent = b.keyEvent ∨ ∀ x, i ≠ .ldVxK x

end Sys2Proof

namespace Sys2Proof.Machine

/-! ### What an instruction can do -/

/-- The fatal conditions of R234 and R235, each with the state it is raised in and the address it records. -/
inductive State.Fatal (s : State) : HaltCause → Option (BitVec 17) → Prop where
  | overflow (full : s.sp.val = 16) : s.Fatal .stackOverflow none
  | underflow (empty : s.sp.val = 0) : s.Fatal .stackUnderflow none
  | outOfRange (a : BitVec 17) (low : 0x1000 ≤ a.toNat) (high : a.toNat ≤ 0xFFFF) : s.Fatal .addressOutOfRange (some a)

/-- Every state an instruction can lead to, by the parts of the state it writes. -/
inductive Effect (i : Instr) (s : State) : State → Prop where
  /-- JP and JP V0 -/
  | jump (w : Word) (range : w.toNat ≤ 0x10FE) (even : i.EvenTarget s → w.toNat % 2 = 0) : Effect i s (s.setPc w)
  /-- the six skips -/
  | skip (cond : Bool) : Effect i s (s.skipIf cond)
  /-- LD Vx,K without a key event -/
  | wait : Effect i s s
  /-- the loads of registers and the ALU -/
  | regs (v : Vector Byte 16) (writes : ∀ z : Reg, v[z] ≠ s.reg z → i.MayWriteReg z) : Effect i s { s with v := v }.advance
  /-- LD I, ADD I and LD F -/
  | index (w : Word) (writer : (∃ nnn, i = .ldI nnn) ∨ (∃ x, i = .addI x) ∨ ∃ x, i = .ldF x) : Effect i s (s.setI w).advance
  /-- LD DT,Vx -/
  | delay (x : Reg) (writer : i = .ldDtVx x) : Effect i s (s.setDt (s.reg x)).advance
  /-- LD ST,Vx -/
  | sound (x : Reg) (writer : i = .ldStVx x) : Effect i s (s.setSt (s.reg x)).advance
  /-- CLS -/
  | clear (writer : i = .cls) : Effect i s (s.setDisp Display.clear).advance
  /-- DRW whose bytes are in range -/
  | draw (x y : Reg) (n : Nibble) (writer : i = .drw x y n) : Effect i s (s.draw x y n).advance
  /-- LD B and LD [I] whose bytes are in range -/
  | store (bs : List Byte) (writer : (∃ x, i = .ldB x) ∨ ∃ x, i = .storeRegs x) (range : s.i.toNat + bs.length ≤ 4096) :
      Effect i s (s.writeBlock s.i.toNat bs).advance
  /-- CALL with room on the stack -/
  | call (nnn : Addr12) (writer : i = .call nnn) (room : s.sp.val < 16) (depth : s.sp.val + 1 < 17) :
      Effect i s { s with stack := s.stack.set s.sp.val (s.pc + 2) room, sp := ⟨s.sp.val + 1, depth⟩, pc := addrOf nnn }
  /-- RET with an entry on the stack -/
  | ret (writer : i = .ret) (k : Fin 16) (depth : k.val < 17) (top : s.sp.val = k.val + 1) :
      Effect i s { s with sp := ⟨k.val, depth⟩, pc := s.stack[k] }
  /-- a fatal condition -/
  | raise (cause : HaltCause) (addr : Option (BitVec 17)) (fatal : s.Fatal cause addr) : Effect i s (s.raiseIn i cause addr)

namespace Effect

variable {i : Instr} {s t : State}

theorem setReg {x : Reg} {b : Byte} (hx : i.MayWriteReg x) : Effect i s (s.setReg x b).advance := by
  refine regs (s.setReg x b).v fun z hz => ?_
  by_cases hzx : z = x
  · exact hzx ▸ hx
  · exact absurd ((s.reg_setReg x z b).trans (if_neg hzx)) hz

theorem setFlagged {x : Reg} {flag : Bool} {b : Byte} (hx : i.MayWriteReg x) (hf : i.MayWriteReg vf) :
    Effect i s (s.setFlagged x flag b).advance := by
  refine regs (s.setFlagged x flag b).v fun z hz => ?_
  by_cases hzx : z = x
  · exact hzx ▸ hx
  by_cases hzf : z = vf
  · exact hzf ▸ hf
  · exact absurd ((s.reg_setFlagged x z flag b).trans ((if_neg hzx).trans (if_neg hzf))) hz

theorem setRegsFrom {x : Reg} {bs : List Byte} (hi : i = .loadRegs x) (hlen : bs.length = x.val + 1) :
    Effect i s (s.setRegsFrom 0 bs).advance := by
  subst hi
  rw [State.setRegsFrom_eq]
  refine regs _ fun z hz => ?_
  by_contra hzx
  have hout : ¬(0 ≤ z.val ∧ z.val < 0 + bs.length) := fun h => hzx (show z.val ≤ x.val by omega)
  exact hz ((s.reg_setRegsFrom bs 0 (by omega) z).trans (dif_neg hout))

/-- An access checked against the end of memory has the effect of what it guards, or raises AddressOutOfRange (R66, R235). -/
theorem checked {n : Nat} {done : State} (hdone : n = 0 ∨ s.i.toNat + n ≤ 4096 → Effect i s done) :
    Effect i s (s.checked i n done) := by
  rcases s.checked_cases i n done with ⟨hin, h⟩ | ⟨-, -, h⟩
  · rw [h]
    exact hdone hin
  · have hi := s.i.isLt
    have ha := spanFault_toNat s.i
    rw [h]
    exact raise _ _ (.outOfRange _ (by omega) (by omega))

end Effect

theorem addrOf_toNat (nnn : Addr12) : (addrOf nnn).toNat = nnn.toNat :=
  BitVec.toNat_setWidth_of_le (by decide)

theorem offsetTarget_toNat (nnn : Addr12) (b : Byte) : (offsetTarget nnn b).toNat = nnn.toNat + b.toNat := by
  have := nnn.isLt
  have := b.isLt
  simp only [offsetTarget, BitVec.toNat_add, BitVec.toNat_setWidth]
  omega

/-- RET pops a return address or raises StackUnderflow (R140). -/
theorem exec_ret_effect (s : State) : ∃ t, exec .ret s = .next t ∧ Effect .ret s t := by
  rcases s.pop_cases with ⟨h0, hp⟩ | ⟨h0, hk, hk', hp⟩
  · exact ⟨_, by rw [exec, execRet, hp], .raise _ _ (.underflow h0)⟩
  · exact ⟨_, by rw [exec, execRet, hp]; rfl, .ret rfl ⟨s.sp.val - 1, hk⟩ hk' (Nat.sub_add_cancel h0).symm⟩

/-- CALL pushes its return address or raises StackOverflow (R142). -/
theorem exec_call_effect (nnn : Addr12) (s : State) : ∃ t, exec (.call nnn) s = .next t ∧ Effect (.call nnn) s t := by
  rcases s.push_cases (s.pc + 2) with ⟨h16, hp⟩ | ⟨hroom, hdepth, hp⟩
  · exact ⟨_, by rw [exec, execCall, hp], .raise _ _ (.overflow h16)⟩
  · exact ⟨_, by rw [exec, execCall, hp]; rfl, .call nnn rfl hroom hdepth⟩

/-- LD Vx,K loads the key of an event, or waits (R212). -/
theorem exec_ldVxK_effect (x : Reg) (s : State) : ∃ t, exec (.ldVxK x) s = .next t ∧ Effect (.ldVxK x) s t := by
  cases hk : s.sample.keyEvent with
  | none => exact ⟨_, by rw [exec, execLdVxK, hk]; rfl, .wait⟩
  | some k => exact ⟨_, by rw [exec, execLdVxK, hk]; rfl, .setReg rfl⟩

/-- Every instruction answers a state that is one of its effects. -/
theorem exec_effect (i : Instr) (s : State) : ∃ t, exec i s = .next t ∧ Effect i s t := by
  cases i with
  | cls => exact ⟨_, rfl, .clear rfl⟩
  | ret => exact exec_ret_effect s
  | jp nnn =>
    have hw := addrOf_toNat nnn
    have hn := nnn.isLt
    exact ⟨_, rfl, .jump _ (by omega) fun he => hw ▸ he⟩
  | call nnn => exact exec_call_effect nnn s
  | seImm x nn => exact ⟨_, rfl, .skip _⟩
  | sneImm x nn => exact ⟨_, rfl, .skip _⟩
  | seReg x y low => exact ⟨_, rfl, .skip _⟩
  | ldImm x nn => exact ⟨_, rfl, .setReg rfl⟩
  | addImm x nn => exact ⟨_, rfl, .setReg rfl⟩
  | ldReg x y => exact ⟨_, rfl, .setReg rfl⟩
  | orReg x y => exact ⟨_, rfl, .setReg rfl⟩
  | andReg x y => exact ⟨_, rfl, .setReg rfl⟩
  | xorReg x y => exact ⟨_, rfl, .setReg rfl⟩
  | addReg x y => exact ⟨_, rfl, .setFlagged (.inl rfl) (.inr rfl)⟩
  | subReg x y => exact ⟨_, rfl, .setFlagged (.inl rfl) (.inr rfl)⟩
  | shr x y => exact ⟨_, rfl, .setFlagged (.inl rfl) (.inr rfl)⟩
  | subnReg x y => exact ⟨_, rfl, .setFlagged (.inl rfl) (.inr rfl)⟩
  | shl x y => exact ⟨_, rfl, .setFlagged (.inl rfl) (.inr rfl)⟩
  | sneReg x y low => exact ⟨_, rfl, .skip _⟩
  | ldI nnn => exact ⟨_, rfl, .index _ (.inl ⟨nnn, rfl⟩)⟩
  | jpV0 nnn =>
    have hw := offsetTarget_toNat nnn (s.reg 0)
    have hn := nnn.isLt
    have hv := (s.reg 0).isLt
    exact ⟨_, rfl, .jump _ (by omega) fun he => hw ▸ he⟩
  | rnd x nn => exact ⟨_, rfl, .setReg rfl⟩
  | drw x y n => exact ⟨_, rfl, .checked fun _ => .draw x y n rfl⟩
  | skp x => exact ⟨_, rfl, .skip _⟩
  | sknp x => exact ⟨_, rfl, .skip _⟩
  | ldVxDt x => exact ⟨_, rfl, .setReg rfl⟩
  | ldVxK x => exact exec_ldVxK_effect x s
  | ldDtVx x => exact ⟨_, rfl, .delay x rfl⟩
  | ldStVx x => exact ⟨_, rfl, .sound x rfl⟩
  | addI x => exact ⟨_, rfl, .index _ (.inr (.inl ⟨x, rfl⟩))⟩
  | ldF x => exact ⟨_, rfl, .index _ (.inr (.inr ⟨x, rfl⟩))⟩
  | ldB x =>
    refine ⟨_, rfl, .checked fun hin => .store _ (.inl ⟨x, rfl⟩) ?_⟩
    have hlen : (bcdDigits (s.reg x)).length = 3 := rfl
    omega
  | storeRegs x =>
    refine ⟨_, rfl, .checked fun hin => .store _ (.inr ⟨x, rfl⟩) ?_⟩
    have hlen := s.length_regsUpTo x
    simp only [regCount] at hin
    omega
  | loadRegs x => exact ⟨_, rfl, .checked fun _ => .setRegsFrom rfl (s.length_readBlock _ _)⟩

/-- What an instruction answered is one of its effects. -/
theorem Effect.of_exec {i : Instr} {s t : State} (h : exec i s = .next t) : Effect i s t := by
  obtain ⟨u, hu, he⟩ := exec_effect i s
  obtain rfl := Host.Outcome.next.inj (hu.symm.trans h)
  exact he

/-! ### What a step can do -/

/-- Every state a step can lead to, by the agent that moves and what it meets (R230 to R232, R236, R245, R270). -/
inductive Moves (s : State) : State → Prop where
  | reset (rom : List Byte) (p : MemParams) (request : s.nextInput.request = .resetLoad rom p) :
      Moves s (s.present.resetLoad rom p)
  /-- a Halted core, on an instruction step or a tick -/
  | frozen : Moves s s.present
  | tick (running : s.status.run = .running) : Moves s ((s.present.setDt (tickDown s.dt)).setSt (tickDown s.st))
  | exhausted (outside : s.inProgram = false) : Moves s (s.present.raise .programExhausted none none)
  | fetchFault (a : BitVec 17) (inside : s.inProgram = true) (fetch : s.fetch = .error a) :
      Moves s (s.present.raise .addressOutOfRange none (some a))
  | unsupported (w : Word) (running : s.status.run = .running) (inside : s.inProgram = true) (fetch : s.fetch = .ok w) :
      Moves s (s.present.unsupported w)
  | instr (w : Word) (i : Instr) {t : State} (request : s.nextInput.request = .doStep) (running : s.status.run = .running)
      (inside : s.inProgram = true) (fetch : s.fetch = .ok w) (decode : decodeWord w = some i) (effect : Effect i s.present t) :
      Moves s t

/-- Every step answers a state that is one of its moves. -/
theorem step_moves (s : State) : ∃ t, step s = .next t ∧ Moves s t := by
  rcases step_cases s with ⟨hreq, hs⟩ | ⟨-, hs⟩ | ⟨rom, p, hreq, hs⟩
  · rcases instructionStep_cases (s := s.present) with
      ⟨-, h⟩ | ⟨-, hout, h⟩ | ⟨-, hin, a, hf, h⟩ | ⟨hrun, hin, w, hf, -, h⟩ | ⟨hrun, hin, w, i, hf, hd, h⟩
    · exact ⟨_, hs.trans h, .frozen⟩
    · exact ⟨_, hs.trans h, .exhausted hout⟩
    · exact ⟨_, hs.trans h, .fetchFault a hin hf⟩
    · exact ⟨_, hs.trans h, .unsupported w hrun hin hf⟩
    · obtain ⟨t, ht, he⟩ := exec_effect i s.present
      exact ⟨t, hs.trans (h.trans ht), .instr w i hreq hrun hin hf hd he⟩
  · rcases s.present.tick_cases with ⟨-, h⟩ | ⟨hrun, h⟩
    · exact ⟨_, hs.trans (congrArg _ h), .frozen⟩
    · exact ⟨_, hs.trans (congrArg _ h), .tick hrun⟩
  · exact ⟨_, hs, .reset rom p hreq⟩

/-- What a step answered is one of its moves. -/
theorem Moves.of_step {s t : State} (h : step s = .next t) : Moves s t := by
  obtain ⟨u, hu, hm⟩ := step_moves s
  obtain rfl := Host.Outcome.next.inj (hu.symm.trans h)
  exact hm

/-! ### Facts about effects -/

/-- The halt record of a Running core depends on nothing but itself. -/
theorem State.RecordOk.of_running {s t : State} (h : s.RecordOk) (hrun : s.status.run = .running) (hst : t.status = s.status) :
    t.RecordOk := by
  unfold State.RecordOk at h ⊢
  rw [hst, hrun]
  rw [hrun] at h
  cases hc : s.status.haltCause with
  | noCause => simpa only [hc] using h
  | _ => simp only [hc] at h

namespace Effect

variable {i : Instr} {s t : State}

/-- No instruction writes ROM_SIZE, the truncation warning or the parameters (R33, R35). -/
theorem params (h : Effect i s t) : t.romSize = s.romSize ∧ t.warnTooLarge = s.warnTooLarge ∧ t.memParams = s.memParams := by
  cases h <;> exact ⟨rfl, rfl, rfl⟩

/-- An instruction leaves every live return address as it was: CALL writes above the live entries only (R27). -/
theorem stack_live (h : Effect i s t) (k : Fin 16) (hk : k.val < s.sp.val) : t.stack[k] = s.stack[k] := by
  cases h with
  | call nnn _ room _ => exact Vector.getElem_set_ne room k.isLt (by omega)
  | _ => rfl

/-- What holds of every live return address and of PC + 2 holds of every live return address after an instruction. -/
theorem stack_forall {P : Word → Prop} (h : Effect i s t) (hlive : ∀ k : Fin 16, k.val < s.sp.val → P s.stack[k])
    (hpush : P (s.pc + 2)) (k : Fin 16) (hk : k.val < t.sp.val) : P t.stack[k] := by
  cases h with
  | call nnn _ room _ =>
    by_cases hks : s.sp.val = k.val
    · have htop : (s.stack.set s.sp.val (s.pc + 2) room)[k] = s.pc + 2 := by simp [hks]
      exact (congrArg P htop).mpr hpush
    · have hold : (s.stack.set s.sp.val (s.pc + 2) room)[k] = s.stack[k] := Vector.getElem_set_ne room k.isLt hks
      have hk' : k.val < s.sp.val + 1 := hk
      exact (congrArg P hold).mpr (hlive k (by omega))
  | ret _ j _ top =>
    have hk' : k.val < j.val := hk
    exact hlive k (by omega)
  | _ => exact hlive k hk

/-- Where an instruction leaves PC: in place, past one word or two, at a jump's target, or at a live return address (R24, R25). -/
theorem pc_cases (h : Effect i s t) :
    (t.pc = s.pc ∨ t.pc = s.pc + 2 ∨ t.pc = s.pc + 4) ∨
      (t.pc.toNat ≤ 0x10FE ∧ (i.EvenTarget s → t.pc.toNat % 2 = 0)) ∨ ∃ k : Fin 16, k.val < s.sp.val ∧ t.pc = s.stack[k] := by
  cases h with
  | jump w range even => exact .inr (.inl ⟨range, even⟩)
  | call nnn writer =>
    subst writer
    have hw := addrOf_toNat nnn
    have hn := nnn.isLt
    exact .inr (.inl ⟨show (addrOf nnn).toNat ≤ 0x10FE by omega, fun he => show (addrOf nnn).toNat % 2 = 0 from hw ▸ he⟩)
  | ret _ k _ top => exact .inr (.inr ⟨k, by omega, rfl⟩)
  | skip cond =>
    cases cond with
    | true => exact .inl (.inr (.inr rfl))
    | false => exact .inl (.inr (.inl rfl))
  | wait => exact .inl (.inl rfl)
  | raise => exact .inl (.inl rfl)
  | _ => exact .inl (.inr (.inl rfl))

/-! ### The invariant, part by part -/

theorem mem_wf (h : Effect i s t) (hm : s.mem.wf s.memParams) : t.mem.wf t.memParams := by
  cases h with
  | store bs _ range => exact Memory.wf_writeBlock bs hm range
  | _ => exact hm

theorem recordOk (h : Effect i s t) (hr : s.RecordOk) (hrun : s.status.run = .running) (hin : s.inProgram = true) :
    t.RecordOk := by
  cases h with
  | raise cause addr fatal =>
    cases fatal with
    | overflow full => exact ⟨rfl, hin, full, Option.some_ne_none _, rfl⟩
    | underflow empty => exact ⟨rfl, hin, empty, Option.some_ne_none _, rfl⟩
    | outOfRange a low high => exact ⟨rfl, hin, nofun, a, rfl, low, high⟩
  | _ => exact hr.of_running hrun rfl

end Effect

/-! ### The program counter (R25, R232) -/

/-- A PC that is in the program and whose word is in memory lies in 0x200..0xFFE. -/
theorem pc_range_of_fetch {s : State} {w : Word} (hin : s.inProgram = true) (hf : s.fetch = .ok w) :
    0x200 ≤ s.pc.toNat ∧ s.pc.toNat ≤ 0xFFE := by
  obtain ⟨hlow, -⟩ := State.inProgram_iff.mp hin
  rcases s.fetch_cases with ⟨hpc, -⟩ | ⟨-, herr⟩
  · exact ⟨hlow, by omega⟩
  · exact nomatch herr.symm.trans hf

/-- The fetch fails inside the program at PC = 0xFFF only, and the failing address is 0x1000 (R235). -/
theorem pc_of_fetch_error {s : State} {a : BitVec 17} (hin : s.inProgram = true) (hf : s.fetch = .error a) :
    s.pc = 0xFFF ∧ a = 0x1000 := by
  obtain ⟨-, hhigh⟩ := State.inProgram_iff.mp hin
  have hrom := s.romSize.isLt
  rcases s.fetch_cases with ⟨-, hok⟩ | ⟨hpc, herr⟩
  · exact nomatch hok.symm.trans hf
  · have hpc' : s.pc.toNat = 0xFFF := by omega
    obtain rfl := Except.error.inj (hf.symm.trans herr)
    rw [hpc']
    exact ⟨BitVec.eq_of_toNat_eq hpc', rfl⟩

theorem Effect.pcOk {i : Instr} {s t : State} (h : Effect i s t) (hstack : s.StackOk) (hpc : s.pc.toNat ≤ 0xFFE) : t.PcOk := by
  simp only [State.PcOk]
  rcases h.pc_cases with (hp | hp | hp) | ⟨hp, -⟩ | ⟨k, hk, hp⟩
  · bv_omega
  · bv_omega
  · bv_omega
  · exact hp
  · have hret := (hstack k hk).2
    rw [hp]
    omega

/-! ### The invariant -/

theorem State.inv_present {s : State} : s.present.Inv ↔ s.Inv := Iff.rfl

/-- An instruction fetched from inside the program keeps the invariant. -/
theorem Effect.inv {i : Instr} {s t : State} (h : Effect i s t) (hs : s.Inv) (hrun : s.status.run = .running)
    (hin : s.inProgram = true) (hpc : 0x200 ≤ s.pc.toNat ∧ s.pc.toNat ≤ 0xFFE) : t.Inv := by
  obtain ⟨hm, hr, hstack, -⟩ := hs
  have hpush : 0x202 ≤ (s.pc + 2).toNat ∧ (s.pc + 2).toNat ≤ 0x1000 := by bv_omega
  exact ⟨h.mem_wf hm, h.recordOk hr hrun hin,
    h.stack_forall (P := fun w => 0x202 ≤ w.toNat ∧ w.toNat ≤ 0x1000) hstack hpush, h.pcOk hstack hpc.2⟩

/-- The launch state meets the invariant, whatever the image and the parameters. -/
theorem State.resetLoad_inv (s : State) (rom : List Byte) (p : MemParams) : (s.resetLoad rom p).Inv := by
  have hlen : 0x200 + (rom.take 3584).length ≤ 4096 := by
    rw [List.length_take]
    omega
  refine ⟨Memory.wf_writeBlock _ Memory.wf_nil hlen, ⟨rfl, rfl⟩, fun k hk => ?_, ?_⟩
  · exact absurd hk (Nat.not_lt_zero _)
  · show (0x200 : Word).toNat ≤ 0x10FE
    decide

/-- Every move keeps the invariant. -/
theorem Moves.inv {s t : State} (h : Moves s t) (hs : s.Inv) : t.Inv := by
  obtain ⟨hm, hr, hstack, hpc⟩ := hs
  cases h with
  | reset rom p => exact s.present.resetLoad_inv rom p
  | frozen => exact State.inv_present.mpr ⟨hm, hr, hstack, hpc⟩
  | tick running => exact ⟨hm, hr.of_running running rfl, hstack, hpc⟩
  | exhausted outside => exact ⟨hm, ⟨rfl, outside, rfl, rfl⟩, hstack, hpc⟩
  | fetchFault a inside fetch =>
    obtain ⟨hpc', rfl⟩ := pc_of_fetch_error inside fetch
    exact ⟨hm, ⟨rfl, inside, fun _ => hpc', 0x1000, rfl, by decide, by decide⟩, hstack, hpc⟩
  | unsupported w running inside fetch =>
    obtain ⟨-, hpc'⟩ := pc_range_of_fetch inside fetch
    exact ⟨hm, hr.of_running running rfl, hstack, show (s.pc + 2).toNat ≤ 0x10FE by bv_omega⟩
  | instr w i _ running inside fetch _ effect =>
    exact effect.inv ⟨hm, hr, hstack, hpc⟩ running inside (pc_range_of_fetch inside fetch)

/-! ### Even program counters (R25, R148) -/

/-- An instruction with an even target keeps PC and the live return addresses even. -/
theorem Effect.evenOk {i : Instr} {s t : State} (h : Effect i s t) (hs : s.EvenOk) (htarget : i.EvenTarget s) : t.EvenOk := by
  obtain ⟨hpc, hstack⟩ := hs
  refine ⟨?_, h.stack_forall (P := fun w => w.toNat % 2 = 0) hstack (by bv_omega)⟩
  rcases h.pc_cases with (hp | hp | hp) | ⟨-, hp⟩ | ⟨k, hk, hp⟩
  · exact hp ▸ hpc
  · bv_omega
  · bv_omega
  · exact hp htarget
  · exact hp ▸ hstack k hk

theorem Moves.evenOk {s t : State} (h : Moves s t) (hs : s.EvenOk)
    (htarget : ∀ w i, s.nextInput.request = .doStep → s.fetch = .ok w → decodeWord w = some i → i.EvenTarget s) : t.EvenOk := by
  cases h with
  | reset rom p => exact ⟨show (0x200 : Word).toNat % 2 = 0 by decide, fun k hk => absurd hk (Nat.not_lt_zero _)⟩
  | unsupported w => exact ⟨show (s.pc + 2).toNat % 2 = 0 by have := hs.1; bv_omega, hs.2⟩
  | instr w i request _ _ fetch decode effect => exact effect.evenOk hs (htarget w i request fetch decode)
  | _ => exact hs

/-! ### What a step that is no reset leaves alone -/

/-- The request of an instruction step or a tick is no reset. -/
theorem request_ne_resetLoad {r : Request} (h : r = .doStep ∨ r = .doTick) (rom : List Byte) (p : MemParams) :
    r ≠ .resetLoad rom p := by
  rcases h with rfl | rfl <;> exact nofun

theorem Moves.params {s t : State} (h : Moves s t) (hreq : s.nextInput.request = .doStep ∨ s.nextInput.request = .doTick) :
    t.romSize = s.romSize ∧ t.warnTooLarge = s.warnTooLarge ∧ t.memParams = s.memParams := by
  cases h with
  | reset rom p request => exact absurd request (request_ne_resetLoad hreq rom p)
  | instr w i _ _ _ _ _ effect => exact effect.params
  | _ => exact ⟨rfl, rfl, rfl⟩

theorem Moves.stack_live {s t : State} (h : Moves s t) (hreq : s.nextInput.request = .doStep ∨ s.nextInput.request = .doTick)
    (k : Fin 16) (hk : k.val < s.sp.val) : t.stack[k] = s.stack[k] := by
  cases h with
  | reset rom p request => exact absurd request (request_ne_resetLoad hreq rom p)
  | instr w i _ _ _ _ _ effect => exact effect.stack_live k hk
  | _ => rfl

/-! ### Reset and load (R44, R271) -/

/-- A byte of memory after a reset: the image's from 0x200 on, as far as it goes and fits, else the parameters' (R271). -/
theorem State.readByte_resetLoad (s : State) (rom : List Byte) (p : MemParams) (a : Nat) :
    (s.resetLoad rom p).readByte a =
      if h : 0x200 ≤ a ∧ a < 0x200 + (rom.take 3584).length then (rom.take 3584)[a - 0x200] else p.byteAt a :=
  Memory.readByte_writeBlock (rom.take 3584) [] 0x200 a

theorem State.readByte_resetLoad_image (s : State) {rom : List Byte} (p : MemParams) {k : Nat} (h : k < rom.length)
    (hfit : k < 3584) : (s.resetLoad rom p).readByte (0x200 + k) = rom[k] := by
  have hin : 0x200 ≤ 0x200 + k ∧ 0x200 + k < 0x200 + (rom.take 3584).length := by
    rw [List.length_take]
    omega
  rw [State.readByte_resetLoad, dif_pos hin, List.getElem_take]
  simp only [Nat.add_sub_cancel_left]

theorem State.readByte_resetLoad_outside (s : State) (rom : List Byte) (p : MemParams) {a : Nat}
    (h : a < 0x200 ∨ 0x200 + min rom.length 3584 ≤ a) : (s.resetLoad rom p).readByte a = p.byteAt a := by
  have hout : ¬(0x200 ≤ a ∧ a < 0x200 + (rom.take 3584).length) := by
    rw [List.length_take]
    omega
  rw [State.readByte_resetLoad, dif_neg hout]

theorem State.reg_reset (z : Reg) : State.reset.reg z = 0 := by
  simp only [State.reg, State.reset, Fin.getElem_fin, Vector.getElem_replicate]

/-! ### Inputs (R40, R41) -/

/-- The state with another sample presented. -/
def State.withSample (s : State) (m : Sample) : State := { s with sample := m }

/-- An answer with another sample presented in its state. -/
def resultWithSample (m : Sample) : Result State → Result State
  | .next t => .next (t.withSample m)
  | .fault r => .fault r
  | .refused r => .refused r

theorem State.push_withSample (s : State) (m : Sample) (w : Word) :
    (s.withSample m).push w = (s.push w).map fun t => t.withSample m := by
  rcases s.push_cases w with ⟨hfull, h⟩ | ⟨hroom, _, h⟩
  · rw [h]
    exact dif_neg (show ¬s.sp.val < 16 by omega)
  · rw [h]
    exact dif_pos hroom

theorem State.pop_withSample (s : State) (m : Sample) :
    (s.withSample m).pop = s.pop.map fun p => (p.1, p.2.withSample m) := by
  rcases s.pop_cases with ⟨hempty, h⟩ | ⟨hsome, _, _, h⟩
  · rw [h]
    exact dif_neg (show ¬0 < s.sp.val by omega)
  · rw [h]
    exact dif_pos hsome

theorem State.checked_withSample (s done : State) (m : Sample) (i : Instr) (n : Nat) :
    (s.withSample m).checked i n (done.withSample m) = (s.checked i n done).withSample m := by
  have hi : (s.withSample m).i = s.i := rfl
  cases h : spanFault s.i.toNat n with
  | none => simp only [State.checked, hi, h]
  | some a =>
    simp only [State.checked, hi, h]
    rfl

theorem State.setRegsFrom_withSample (bs : List Byte) (s : State) (m : Sample) (k : Nat) :
    (s.withSample m).setRegsFrom k bs = (s.setRegsFrom k bs).withSample m := by
  induction bs generalizing s k with
  | nil => rfl
  | cons b bs ih => exact ih (s.setReg (Fin.ofNat 16 k) b) (k + 1)

/-- An instruction that reads the same on another sample does the same. -/
theorem exec_withSample (i : Instr) (s : State) (m : Sample) (hm : i.ReadsAlike s.sample m) :
    exec i (s.withSample m) = resultWithSample m (exec i s) := by
  cases i with
  | ret =>
    rw [exec, execRet, State.pop_withSample, exec, execRet]
    cases s.pop <;> rfl
  | call nnn =>
    have hpc : (s.withSample m).pc = s.pc := rfl
    rw [exec, execCall, hpc, State.push_withSample, exec, execCall]
    cases s.push (s.pc + 2) <;> rfl
  | rnd x nn =>
    have hr : s.sample.randByte = m.randByte := hm.randByte.resolve_right fun h => h x nn rfl
    rw [exec, execRnd, exec, execRnd, hr]
    rfl
  | skp x =>
    have hk : s.sample.keysDown = m.keysDown := hm.keysDown.resolve_right fun h => (h x).1 rfl
    rw [exec, execSkp, exec, execSkp, State.pressed, State.pressed, hk]
    rfl
  | sknp x =>
    have hk : s.sample.keysDown = m.keysDown := hm.keysDown.resolve_right fun h => (h x).2 rfl
    rw [exec, execSknp, exec, execSknp, State.pressed, State.pressed, hk]
    rfl
  | ldVxK x =>
    have hk : s.sample.keyEvent = m.keyEvent := hm.keyEvent.resolve_right fun h => h x rfl
    have hk' : (s.withSample m).sample.keyEvent = s.sample.keyEvent := hk.symm
    rw [exec, execLdVxK, exec, execLdVxK, hk']
    cases s.sample.keyEvent <;> rfl
  | drw x y n => exact congrArg Host.Outcome.next (s.checked_withSample (s.draw x y n).advance m _ _)
  | ldB x =>
    exact congrArg Host.Outcome.next (s.checked_withSample (s.writeBlock s.i.toNat (bcdDigits (s.reg x))).advance m _ _)
  | storeRegs x =>
    exact congrArg Host.Outcome.next (s.checked_withSample (s.writeBlock s.i.toNat (s.regsUpTo x)).advance m _ _)
  | loadRegs x =>
    have hload : ((s.withSample m).setRegsFrom 0 (s.readBlock s.i.toNat (regCount x))).advance =
        (s.setRegsFrom 0 (s.readBlock s.i.toNat (regCount x))).advance.withSample m :=
      congrArg State.advance (State.setRegsFrom_withSample _ s m 0)
    exact congrArg Host.Outcome.next ((congrArg (State.checked _ _ _) hload).trans (s.checked_withSample _ m _ _))
  | _ => rfl

end Sys2Proof.Machine

namespace Sys2Proof

open Machine

/-! ### The statements -/

/-- Settles O20: each move keeps memory's form, the halt record, the live stack and PC's range. -/
theorem stepKeepsInvariant : Obligations.StepKeepsInvariant := fun _ _ hs h => (Moves.of_step h).inv hs

/-- Settles O21, by where an instruction leaves PC and what it pushes. -/
theorem pcStaysEvenWithEvenTargets : Obligations.PcStaysEvenWithEvenTargets := fun _ _ hs h htarget =>
  (Moves.of_step h).evenOk hs htarget

/-- Settles O22: of the moves of a step only the reset writes these fields. -/
theorem onlyLoadSetsProgramSize : Obligations.OnlyLoadSetsProgramSize := fun _ _ hreq h => (Moves.of_step h).params hreq

/-- Settles O23: CALL alone writes a stack entry, and it is not a live one. -/
theorem liveReturnAddressesAreKept : Obligations.LiveReturnAddressesAreKept := fun _ _ k hreq h hk _ =>
  (Moves.of_step h).stack_live hreq k hk

/-- Settles O17: the launch state field by field, and its memory by where the address lies. -/
theorem resetLoadGivesLaunchState : Obligations.ResetLoadGivesLaunchState := by
  intro s rom p hreq
  refine ⟨s.present.resetLoad rom p, ?_, rfl, rfl, State.reg_reset, rfl, rfl, rfl, rfl, Display.pixel_clear, rfl, rfl, rfl, rfl, rfl,
    decide_eq_true_iff, ?_, ?_, ?_⟩
  · rw [step, hostStep, hreq]
    rfl
  · exact fun k h hfit => s.present.readByte_resetLoad_image p h hfit
  · intro k h
    rw [s.present.readByte_resetLoad_outside rom p (by omega), p.byteAt_font h]
  · intro a ha
    rw [s.present.readByte_resetLoad_outside rom p (by omega), p.byteAt_background (by omega)]

/-- Settles O18: the zero registers and pixels are replicated vectors, the rest holds by definition. -/
theorem resetStateValues : Obligations.ResetStateValues :=
  ⟨rfl, rfl, State.reg_reset, rfl, rfl, rfl, Display.pixel_clear, rfl, rfl, rfl, rfl, fun _ _ => rfl⟩

/-- Settles O19: State.reset lists no cell, is Running with an empty stack, and has PC = 0x200. -/
theorem resetMeetsInvariant : Obligations.ResetMeetsInvariant :=
  ⟨Memory.wf_reset, ⟨rfl, rfl⟩, fun k hk => absurd hk (Nat.not_lt_zero k.val), show (0x200 : Word).toNat ≤ 0x10FE by decide⟩

/-- Settles O25: the effects that write registers are `regs` and the draw. -/
theorem registerWriters : Obligations.RegisterWriters := by
  intro i s t z h hz
  cases Effect.of_exec h with
  | regs v writes => exact writes z hz
  | draw x y n writer =>
    subst writer
    by_contra hzf
    exact hz ((State.reg_setReg _ vf z _).trans (if_neg hzf))
  | _ => exact absurd rfl hz

/-- Settles O26: one effect for each of I, DT and ST. -/
theorem indexAndTimerWriters : Obligations.IndexAndTimerWriters := by
  intro i s t h
  cases Effect.of_exec h with
  | index w writer => exact ⟨fun _ => writer, fun hd => absurd rfl hd, fun hs => absurd rfl hs⟩
  | delay x writer => exact ⟨fun hi => absurd rfl hi, fun _ => ⟨x, writer⟩, fun hs => absurd rfl hs⟩
  | sound x writer => exact ⟨fun hi => absurd rfl hi, fun hd => absurd rfl hd, fun _ => ⟨x, writer⟩⟩
  | _ => exact ⟨fun hi => absurd rfl hi, fun hd => absurd rfl hd, fun hs => absurd rfl hs⟩

/-- Settles O27: the effects that write the stack are `call` and `ret`. -/
theorem stackWriters : Obligations.StackWriters := by
  intro i s t h hne
  cases Effect.of_exec h with
  | call nnn writer => exact .inr ⟨nnn, writer⟩
  | ret writer => exact .inl writer
  | _ => exact absurd ⟨rfl, rfl⟩ hne

/-- Settles O28: the effect that writes memory is `store`. -/
theorem memoryWriters : Obligations.MemoryWriters := by
  intro i s t h hne
  cases Effect.of_exec h with
  | store bs writer => exact writer
  | _ => exact absurd (fun _ => rfl) hne

/-- Settles O29: the effects that write the display are `clear` and `draw`. -/
theorem displayWriters : Obligations.DisplayWriters := by
  intro i s t h hne
  cases Effect.of_exec h with
  | clear writer => exact .inl writer
  | draw x y n writer => exact .inr ⟨x, y, n, writer⟩
  | _ => exact absurd (fun _ _ => rfl) hne

/-- Settles O30: another sample that the instruction reads alike goes through it unchanged. -/
theorem inputsReadOnlyByTheirInstructions : Obligations.InputsReadOnlyByTheirInstructions := fun i s _ m h hrand hkeys hevent =>
  (exec_withSample i s m ⟨hrand, hkeys, hevent⟩).trans (congrArg (resultWithSample m) h)

/-- Settles O53: the event of a coherent sample is a key that is down, and there is one whenever a key is down. -/
theorem keyWaitEndsWithKeyDown : Obligations.KeyWaitEndsWithKeyDown := by
  rintro x s t ⟨hnone, hdown⟩ h
  rw [exec, execLdVxK] at h
  obtain rfl := Host.Outcome.next.inj h
  cases hk : s.sample.keyEvent with
  | none =>
    have hzero : s.sample.keysDown = 0 := hnone.mp hk
    have hpc : s.pc ≠ s.pc + 2 := by bv_omega
    exact ⟨iff_of_false hpc (not_not_intro hzero), fun hne => absurd hzero hne⟩
  | some k =>
    have hne : s.sample.keysDown ≠ 0 := fun hzero => nomatch hk.symm.trans (hnone.mpr hzero)
    have hx : ((s.takeKey x (some k)).reg x).toNat = k.val := by
      simp only [State.takeKey, State.reg_advance, State.reg_setReg, if_true, BitVec.toNat_ofNat]
      omega
    refine ⟨iff_of_true rfl hne, fun _ => ?_⟩
    rw [hx]
    exact ⟨Nat.le_of_lt_succ k.isLt, hdown k hk⟩

end Sys2Proof
end

section
/-! PROOFS. Fetch and self-modifying stores (spec/20_memory.md): the two halves of a fetched word, a fetch that lies in memory, and
what LD [I],Vx leaves in the memory that the next fetch reads. -/

namespace Sys2Proof

/-! ### The two halves of a word (R60) -/

theorem combineBytes_toNat (hi lo : Byte) : (combineBytes hi lo).toNat = hi.toNat * 256 + lo.toNat := by
  have hhi := hi.isLt
  have hlo := lo.isLt
  rw [combineBytes, BitVec.toNat_ofNat, Nat.mod_eq_of_lt (by omega)]

theorem highBits_combineBytes (hi lo : Byte) : bits (combineBytes hi lo) 15 8 = hi.toNat := by
  have hhi := hi.isLt
  have hlo := lo.isLt
  rw [bits, combineBytes_toNat]
  omega

theorem lowBits_combineBytes (hi lo : Byte) : bits (combineBytes hi lo) 7 0 = lo.toNat := by
  have hlo := lo.isLt
  rw [bits, combineBytes_toNat]
  omega

end Sys2Proof

namespace Sys2Proof.Machine

/-! ### A fetch whose two bytes lie in memory (R60) -/

theorem State.fetch_eq_ok {s : State} (h : s.pc.toNat + 1 < 4096) :
    s.fetch = .ok (combineBytes (s.readByte s.pc.toNat) (s.readByte (s.pc.toNat + 1))) := by
  rcases s.fetch_cases with ⟨-, hok⟩ | ⟨hout, -⟩
  · exact hok
  · omega

/-! ### Registers stored in memory (R194) -/

/-- After V0..Vx are written from address a on, the byte at a + z is V[z]. -/
theorem State.readByte_writeBlock_regsUpTo (s : State) (a : Nat) {x z : Reg} (hz : z ≤ x) :
    (s.writeBlock a (s.regsUpTo x)).readByte (a + z.val) = s.reg z := by
  have hzx : z.val ≤ x.val := hz
  have hin : a ≤ a + z.val ∧ a + z.val < a + (s.regsUpTo x).length := by
    rw [s.length_regsUpTo x]
    omega
  rw [State.readByte_writeBlock, dif_pos hin, State.getElem_regsUpTo, Nat.add_sub_cancel_left, Fin.ofNat_val_eq_self]

theorem exec_storeRegs_of_inMemory {x : Reg} {s : State} (h : s.i.toNat + x.val < 4096) :
    exec (.storeRegs x) s = .next (s.writeBlock s.i.toNat (s.regsUpTo x)).advance := by
  rw [exec, execStoreRegs]
  rcases s.checked_cases (.storeRegs x) (regCount x) (s.writeBlock s.i.toNat (s.regsUpTo x)).advance with
    ⟨-, hdone⟩ | ⟨-, hout, -⟩
  · rw [hdone]
  · rw [regCount] at hout
    omega

end Sys2Proof.Machine

namespace Sys2Proof

open Machine

/-! ### The statements -/

/-- Settles O7: the bound check on PC and PC + 1 decides, and the word's halves are the two bytes. -/
theorem fetchIsBigEndian : Obligations.FetchIsBigEndian := by
  refine fun s => ⟨fun hin => ?_, fun hpc => ?_⟩
  · exact ⟨_, State.fetch_eq_ok hin, combineBytes_toNat _ _, highBits_combineBytes _ _, lowBits_combineBytes _ _⟩
  · rcases s.fetch_cases with ⟨hin, -⟩ | ⟨-, herr⟩
    · omega
    · rw [herr, hpc]
      rfl

/-- Settles O50: the store leaves PC at I, where it has put V0 and V1. -/
theorem storedBytesAreFetchedNext : Obligations.StoredBytesAreFetchedNext := by
  intro x s t hx hi hin h
  obtain rfl := Host.Outcome.next.inj (h.symm.trans (exec_storeRegs_of_inMemory hin))
  have hpc : (s.writeBlock s.i.toNat (s.regsUpTo x)).advance.pc = s.i := hi.symm
  have hbyte0 := s.readByte_writeBlock_regsUpTo s.i.toNat (Fin.zero_le x)
  have hbyte1 := s.readByte_writeBlock_regsUpTo s.i.toNat (z := 1) (Fin.le_def.mpr hx)
  refine ⟨_, State.fetch_eq_ok (by rw [hpc]; omega), ?_⟩
  rw [combineBytes_toNat, hpc, State.readByte_advance, State.readByte_advance]
  exact congrArg₂ (fun b c : Byte => b.toNat * 256 + c.toNat) hbyte0 hbyte1

end Sys2Proof
end

section
/-! PROOFS. The encoding (spec/30_encoding.md): decoder and encoder undo each other, and the dispatcher against the opcode map and
the list of unsupported words. -/

namespace Sys2Proof

/-! ### A word is packed from its own fields (R91, R92) -/

theorem packNNN_fields {w : Word} {op : Nat} (hop : opField w = op) : packNNN op (nnnField w) = w := by
  have hw := w.isLt
  apply BitVec.eq_of_toNat_eq
  simp only [← hop, packNNN, opField, nnnField, bits, BitVec.toNat_ofNat]
  omega

theorem packXNN_fields {w : Word} {op : Nat} {nn : Byte} (hop : opField w = op) (hnn : nnField w = nn) :
    packXNN op (xField w) nn = w := by
  have hw := w.isLt
  apply BitVec.eq_of_toNat_eq
  simp only [← hop, ← hnn, packXNN, opField, xField, nnField, bits, Fin.val_ofNat, BitVec.toNat_ofNat]
  omega

theorem packXYN_fields {w : Word} {op : Nat} {n : Nibble} (hop : opField w = op) (hn : nField w = n) :
    packXYN op (xField w) (yField w) n = w := by
  have hw := w.isLt
  apply BitVec.eq_of_toNat_eq
  simp only [← hop, ← hn, packXYN, opField, xField, yField, nField, bits, Fin.val_ofNat, BitVec.toNat_ofNat]
  omega

/-- A word of group 0x0 is the number of its low 12 bits. -/
theorem eq_ofNat_of_group0 {w : Word} {k : Nat} (hop : opField w = 0x0) (hk : bits w 11 0 = k) : w = BitVec.ofNat 16 k := by
  have hw := w.isLt
  rw [opField, bits] at hop
  apply BitVec.eq_of_toNat_eq
  rw [← hk, bits, BitVec.toNat_ofNat]
  omega

/-! ### What each group of the second level decodes (R94, R96) -/

theorem encode_of_decodeGroup0 {w : Word} {i : Instr} (hop : opField w = 0x0) (h : decodeGroup0 w = some i) : encode i = w := by
  rw [decodeGroup0] at h
  split at h
  case h_3 => cases h
  all_goals
    obtain rfl := Option.some.inj h
    exact (eq_ofNat_of_group0 hop ‹bits w 11 0 = _›).symm

theorem encode_of_decodeGroup8 {w : Word} {i : Instr} (hop : opField w = 0x8) (h : decodeGroup8 w = some i) : encode i = w := by
  rw [decodeGroup8] at h
  split at h
  case h_10 => cases h
  all_goals
    obtain rfl := Option.some.inj h
    exact packXYN_fields hop (congrArg (BitVec.ofNat 4) ‹bits w 3 0 = _›)

theorem encode_of_decodeGroupE {w : Word} {i : Instr} (hop : opField w = 0xE) (h : decodeGroupE w = some i) : encode i = w := by
  rw [decodeGroupE] at h
  split at h
  case h_3 => cases h
  all_goals
    obtain rfl := Option.some.inj h
    exact packXNN_fields hop (congrArg (BitVec.ofNat 8) ‹bits w 7 0 = _›)

theorem encode_of_decodeGroupF {w : Word} {i : Instr} (hop : opField w = 0xF) (h : decodeGroupF w = some i) : encode i = w := by
  rw [decodeGroupF] at h
  split at h
  case h_10 => cases h
  all_goals
    obtain rfl := Option.some.inj h
    exact packXNN_fields hop (congrArg (BitVec.ofNat 8) ‹bits w 7 0 = _›)

theorem decodeGroup0_eq_none_iff {w : Word} (hop : opField w = 0x0) : decodeGroup0 w = none ↔ w ≠ 0x00E0 ∧ w ≠ 0x00EE := by
  rw [decodeGroup0]
  split
  case h_1 hk => exact iff_of_false nofun fun hne => hne.1 (eq_ofNat_of_group0 hop hk)
  case h_2 hk => exact iff_of_false nofun fun hne => hne.2 (eq_ofNat_of_group0 hop hk)
  case h_3 hcls hret => exact iff_of_true rfl ⟨fun h => hcls (h ▸ rfl), fun h => hret (h ▸ rfl)⟩

theorem decodeGroup8_eq_none_iff (w : Word) : decodeGroup8 w = none ↔ bits w 3 0 ∈ [0x8, 0x9, 0xA, 0xB, 0xC, 0xD, 0xF] := by
  have hlt : bits w 3 0 < 16 := Nat.mod_lt _ (by decide)
  rw [decodeGroup8]
  split
  case h_10 =>
    refine iff_of_true rfl ?_
    simp only [imp_false, List.mem_cons, List.not_mem_nil, or_false] at *
    omega
  all_goals
    rw [‹bits w 3 0 = _›]
    exact iff_of_false nofun (by decide)

theorem decodeGroupE_eq_none_iff (w : Word) : decodeGroupE w = none ↔ bits w 7 0 ∉ [0x9E, 0xA1] := by
  rw [decodeGroupE]
  split
  case h_3 =>
    refine iff_of_true rfl ?_
    simp only [imp_false, List.mem_cons, List.not_mem_nil, or_false] at *
    omega
  all_goals
    rw [‹bits w 7 0 = _›]
    exact iff_of_false nofun (by decide)

theorem decodeGroupF_eq_none_iff (w : Word) :
    decodeGroupF w = none ↔ bits w 7 0 ∉ [0x07, 0x0A, 0x15, 0x18, 0x1E, 0x29, 0x33, 0x55, 0x65] := by
  rw [decodeGroupF]
  split
  case h_10 =>
    refine iff_of_true rfl ?_
    simp only [imp_false, List.mem_cons, List.not_mem_nil, or_false] at *
    omega
  all_goals
    rw [‹bits w 7 0 = _›]
    exact iff_of_false nofun (by decide)

/-! ### What the first level decodes (R93, R95) -/

/-- The first level hands a word to one of its four groups, or decodes it at once to the instruction of that word. -/
theorem decodeWord_cases (w : Word) :
    (opField w = 0x0 ∧ decodeWord w = decodeGroup0 w) ∨ (opField w = 0x8 ∧ decodeWord w = decodeGroup8 w) ∨
      (opField w = 0xE ∧ decodeWord w = decodeGroupE w) ∨ (opField w = 0xF ∧ decodeWord w = decodeGroupF w) ∨
      (opField w ∉ [0x0, 0x8, 0xE, 0xF] ∧ ∃ i, decodeWord w = some i ∧ encode i = w) := by
  have hlt : opField w < 16 := Nat.mod_lt _ (by decide)
  generalize hd : decodeWord w = d
  rw [decodeWord] at hd
  split at hd
  case h_1 hop => exact .inl ⟨hop, hd.symm⟩
  case h_9 hop => exact .inr (.inl ⟨hop, hd.symm⟩)
  case h_15 hop => exact .inr (.inr (.inl ⟨hop, hd.symm⟩))
  case h_16 hop => exact .inr (.inr (.inr (.inl ⟨hop, hd.symm⟩)))
  case h_17 =>
    simp only [imp_false] at *
    omega
  all_goals
    rename_i hop
    refine .inr (.inr (.inr (.inr ⟨by rw [hop]; decide, _, hd.symm, ?_⟩)))
  case h_2 | h_3 | h_11 | h_12 => exact packNNN_fields hop
  case h_4 | h_5 | h_7 | h_8 | h_13 => exact packXNN_fields hop rfl
  case h_6 | h_10 | h_14 => exact packXYN_fields hop rfl

/-! ### The bits the dispatcher selects on (R93 to R97) -/

theorem bits_and (v w : Word) (hi lo : Nat) : bits (v &&& w) hi lo = bits v hi lo &&& bits w hi lo := by
  simp only [bits, BitVec.toNat_and, Nat.and_div_two_pow, Nat.and_mod_two_pow]

/-- A field that lies under the mask is the same in the masked word. -/
theorem bits_eq_of_and_eq {w m v : Word} {hi lo : Nat} (hm : bits m hi lo = 2 ^ (hi + 1 - lo) - 1) (h : w &&& m = v) :
    bits w hi lo = bits v hi lo := by
  rw [← h, bits_and, hm, Nat.and_two_pow_sub_one_eq_mod, bits, Nat.mod_mod]

/-- The bits that choose a word's mnemonic, by its opcode. -/
def selectMask : Nat → Word
  | 0x0 => 0xFFFF
  | 0x8 => 0xF00F
  | 0xE => 0xF0FF
  | 0xF => 0xF0FF
  | _ => 0xF000

theorem opField_selectMask (op : Nat) : opField (selectMask op) = 0xF := by
  unfold selectMask
  split <;> rfl

/-- The masks of the opcode map are those of the dispatcher. -/
theorem mask_eq_selectMask : ∀ r ∈ opcodeTable, r.mask = selectMask (opField r.pattern) := by decide

theorem mnemonic_decodeGroup8_congr {v w : Word} (h : bits w 3 0 = bits v 3 0) :
    (decodeGroup8 w).map Instr.mnemonic = (decodeGroup8 v).map Instr.mnemonic := by
  rw [decodeGroup8, decodeGroup8, h]
  split <;> rfl

theorem mnemonic_decodeGroupE_congr {v w : Word} (h : bits w 7 0 = bits v 7 0) :
    (decodeGroupE w).map Instr.mnemonic = (decodeGroupE v).map Instr.mnemonic := by
  rw [decodeGroupE, decodeGroupE, h]
  split <;> rfl

theorem mnemonic_decodeGroupF_congr {v w : Word} (h : bits w 7 0 = bits v 7 0) :
    (decodeGroupF w).map Instr.mnemonic = (decodeGroupF v).map Instr.mnemonic := by
  rw [decodeGroupF, decodeGroupF, h]
  split <;> rfl

/-- A word has the mnemonic of the word that is left when only the selecting bits are kept. -/
theorem mnemonic_decodeWord_of_selected {v w : Word} (h : w &&& selectMask (opField v) = v) :
    (decodeWord w).map Instr.mnemonic = (decodeWord v).map Instr.mnemonic := by
  have hop : opField w = opField v := bits_eq_of_and_eq (opField_selectMask _) h
  rw [decodeWord, decodeWord, hop]
  split
  case h_1 hv =>
    rw [hv] at h
    obtain rfl : w = v := BitVec.and_allOnes.symm.trans h
    rfl
  case h_9 hv => exact mnemonic_decodeGroup8_congr (bits_eq_of_and_eq rfl (hv ▸ h))
  case h_15 hv => exact mnemonic_decodeGroupE_congr (bits_eq_of_and_eq rfl (hv ▸ h))
  case h_16 hv => exact mnemonic_decodeGroupF_congr (bits_eq_of_and_eq rfl (hv ▸ h))
  all_goals rfl

theorem mnemonic_decodeWord_pattern : ∀ r ∈ opcodeTable, (decodeWord r.pattern).map Instr.mnemonic = some r.mnemonic := by decide

end Sys2Proof

namespace Sys2Proof.Laws.OpcodeRowFits

/-- Every instruction's word lies in the row of its mnemonic. -/
theorem ofInstr : ∀ i : Instr, Statement i
  | .cls => cls
  | .ret => ret
  | .jp nnn => jp nnn
  | .call nnn => call nnn
  | .seImm x nn => seImm x nn
  | .sneImm x nn => sneImm x nn
  | .seReg x y low => seReg x y low
  | .ldImm x nn => ldImm x nn
  | .addImm x nn => addImm x nn
  | .ldReg x y => ldReg x y
  | .orReg x y => orReg x y
  | .andReg x y => andReg x y
  | .xorReg x y => xorReg x y
  | .addReg x y => addReg x y
  | .subReg x y => subReg x y
  | .shr x y => shr x y
  | .subnReg x y => subnReg x y
  | .shl x y => shl x y
  | .sneReg x y low => sneReg x y low
  | .ldI nnn => ldI nnn
  | .jpV0 nnn => jpV0 nnn
  | .rnd x nn => rnd x nn
  | .drw x y n => drw x y n
  | .skp x => skp x
  | .sknp x => sknp x
  | .ldVxDt x => ldVxDt x
  | .ldVxK x => ldVxK x
  | .ldDtVx x => ldDtVx x
  | .ldStVx x => ldStVx x
  | .addI x => addI x
  | .ldF x => ldF x
  | .ldB x => ldB x
  | .storeRegs x => storeRegs x
  | .loadRegs x => loadRegs x

end Sys2Proof.Laws.OpcodeRowFits

namespace Sys2Proof

/-! ### The statements -/

/-- Settles O1, format by format: the decoder reads back the opcode, the selecting bits and the operands that were packed. -/
theorem decodeOfEncode : Obligations.DecodeOfEncode := by
  intro i
  cases i with
  | cls | ret => rfl
  | jp nnn | call nnn | ldI nnn | jpV0 nnn =>
    simp [encode, decodeWord, opField_packNNN, nnnField_packNNN]
  | seImm x nn | sneImm x nn | ldImm x nn | addImm x nn | rnd x nn =>
    simp [encode, decodeWord, opField_packXNN, xField_packXNN, nnField_packXNN]
  | seReg x y n | sneReg x y n | drw x y n =>
    simp [encode, decodeWord, opField_packXYN, xField_packXYN, yField_packXYN, nField_packXYN]
  | ldReg x y | orReg x y | andReg x y | xorReg x y | addReg x y | subReg x y | shr x y | subnReg x y | shl x y =>
    simp [encode, decodeWord, decodeGroup8, opField_packXYN, xField_packXYN, yField_packXYN, nBits_packXYN]
  | skp x | sknp x =>
    simp [encode, decodeWord, decodeGroupE, opField_packXNN, xField_packXNN, nnBits_packXNN]
  | ldVxDt x | ldVxK x | ldDtVx x | ldStVx x | addI x | ldF x | ldB x | storeRegs x | loadRegs x =>
    simp [encode, decodeWord, decodeGroupF, opField_packXNN, xField_packXNN, nnBits_packXNN]

/-- Settles O2: the first level decides, or one of its four groups. -/
theorem encodeOfDecode : Obligations.EncodeOfDecode := by
  intro w i h
  rcases decodeWord_cases w with ⟨hop, hd⟩ | ⟨hop, hd⟩ | ⟨hop, hd⟩ | ⟨hop, hd⟩ | ⟨-, j, hj, henc⟩
  · exact encode_of_decodeGroup0 hop (hd.symm.trans h)
  · exact encode_of_decodeGroup8 hop (hd.symm.trans h)
  · exact encode_of_decodeGroupE hop (hd.symm.trans h)
  · exact encode_of_decodeGroupF hop (hd.symm.trans h)
  · obtain rfl := Option.some.inj (hj.symm.trans h)
    exact henc

/-- Settles O3: a decoded word is its instruction's own word, which lies in its row; a covered word is chosen like the row's pattern. -/
theorem dispatcherFollowsOpcodeMap : Obligations.DispatcherFollowsOpcodeMap := by
  intro w m
  constructor
  · rintro ⟨i, hd, rfl⟩
    obtain ⟨r, hr, hm, hcovers⟩ := Laws.OpcodeRowFits.ofInstr i
    rw [encodeOfDecode w i hd, OpcodeRow.covers, beq_iff_eq] at hcovers
    exact ⟨r, hr, hm, hcovers⟩
  · rintro ⟨r, hr, rfl, h⟩
    rw [mask_eq_selectMask r hr] at h
    exact Option.map_eq_some_iff.mp ((mnemonic_decodeWord_of_selected h).trans (mnemonic_decodeWord_pattern r hr))

/-- Settles O4: only the four groups of the second level leave words out. -/
theorem unsupportedWordsAre : Obligations.UnsupportedWordsAre := by
  intro w
  rcases decodeWord_cases w with ⟨hop, hd⟩ | ⟨hop, hd⟩ | ⟨hop, hd⟩ | ⟨hop, hd⟩ | ⟨hop, i, hd, -⟩
  · simp [hd, hop, decodeGroup0_eq_none_iff hop]
  · simp [hd, hop, decodeGroup8_eq_none_iff]
  · simp [hd, hop, decodeGroupE_eq_none_iff]
  · simp [hd, hop, decodeGroupF_eq_none_iff]
  · simp only [List.mem_cons, List.not_mem_nil, or_false, not_or] at hop
    simp [hd, hop]

/-- Settles O5 by running the decoder on each word. -/
theorem sourceWordsDecode : Obligations.SourceWordsDecode :=
  ⟨rfl, rfl, rfl, rfl, rfl, rfl, rfl⟩

end Sys2Proof
end

section
/-! PROOFS. The display (spec/40_display.md): the draw said through SpriteHit instead of a list of pixels, when DRW runs it and when it
halts, and what two draws of one sprite do. -/

namespace Sys2Proof

/-- An instruction's word decodes to it, so the word's number is all that is left to show (R97). -/
theorem Instr.hasWord_of_encode {i : Instr} {n : Nat} (h : (encode i).toNat = n) : i.HasWord n := by
  refine ⟨h, ?_⟩
  rw [← h, BitVec.ofNat_toNat, BitVec.setWidth_eq]
  exact decodeOfEncode i

end Sys2Proof

namespace Sys2Proof.Machine

/-! ### A sprite read from memory (R122) -/

/-- The pixels of the sprite at I are those that SpriteHit names. -/
theorem State.mem_rowsTargets_readBlock {s : State} {x0 y0 n : Nat} {r : Fin 32} {c : Fin 64} :
    (r, c) ∈ rowsTargets x0 y0 0 (s.readBlock s.i.toNat n) ↔ s.SpriteHit x0 y0 n r c := by
  simp only [mem_rowsTargets, State.length_readBlock, State.getElem_readBlock, State.SpriteHit, spriteBit, target, Prod.mk.injEq,
    Fin.ext_iff, Fin.val_ofNat, Nat.zero_add]
  constructor
  · rintro ⟨k, hk, j, hj, hbit, hr, hc⟩
    exact ⟨k, j, hk, hj, hr, hc, hbit⟩
  · rintro ⟨k, j, hk, hj, hr, hc, hbit⟩
    exact ⟨k, hk, j, hj, hbit, hr, hc⟩

/-- A sprite has at most 15 rows, so no two of its bits share a pixel. -/
theorem State.length_readBlock_le (s : State) (a : Nat) (n : Nibble) : (s.readBlock a n.toNat).length ≤ 32 := by
  have hn := n.isLt
  rw [s.length_readBlock]
  omega

/-! ### What a draw writes and what it leaves (R121, R122) -/

section Draw

variable {s : State} {x y : Reg} {n : Nibble}

theorem State.disp_draw : (s.draw x y n).disp =
    (s.disp.drawSprite (s.reg x).toNat (s.reg y).toNat (s.readBlock s.i.toNat n.toNat)).1 := rfl

theorem State.pixel_draw_of_hit {r : Fin 32} {c : Fin 64} (h : s.SpriteHit (s.reg x).toNat (s.reg y).toNat n.toNat r c) :
    (s.draw x y n).disp.pixel r c = !s.disp.pixel r c := by
  rw [State.disp_draw, pixel_drawSprite _ _ _ _ (s.length_readBlock_le _ n), decide_eq_true (State.mem_rowsTargets_readBlock.mpr h),
    Bool.xor_true]

theorem State.pixel_draw_of_not_hit {r : Fin 32} {c : Fin 64} (h : ¬s.SpriteHit (s.reg x).toNat (s.reg y).toNat n.toNat r c) :
    (s.draw x y n).disp.pixel r c = s.disp.pixel r c := by
  rw [State.disp_draw, pixel_drawSprite _ _ _ _ (s.length_readBlock_le _ n),
    decide_eq_false fun hmem => h (State.mem_rowsTargets_readBlock.mp hmem), Bool.xor_false]

/-- The collision flag is raised exactly by a pixel of the sprite that was set. -/
theorem State.flag_drawSprite_iff :
    (s.disp.drawSprite (s.reg x).toNat (s.reg y).toNat (s.readBlock s.i.toNat n.toNat)).2 = true ↔
      ∃ r c, s.SpriteHit (s.reg x).toNat (s.reg y).toNat n.toNat r c ∧ s.disp.pixel r c = true := by
  rw [flag_drawSprite _ _ _ _ (s.length_readBlock_le _ n), List.any_eq_true]
  constructor
  · rintro ⟨⟨r, c⟩, hmem, hset⟩
    exact ⟨r, c, State.mem_rowsTargets_readBlock.mp hmem, hset⟩
  · rintro ⟨r, c, hhit, hset⟩
    exact ⟨(r, c), State.mem_rowsTargets_readBlock.mpr hhit, hset⟩

theorem flagByte_eq_one_iff {b : Bool} : flagByte b = 1 ↔ b = true := by cases b <;> decide

theorem flagByte_eq_zero_iff {b : Bool} : flagByte b = 0 ↔ ¬b = true := by cases b <;> decide

theorem State.reg_vf_draw : (s.draw x y n).reg vf =
    flagByte (s.disp.drawSprite (s.reg x).toNat (s.reg y).toNat (s.readBlock s.i.toNat n.toNat)).2 :=
  (State.reg_setReg _ vf vf _).trans (if_pos rfl)

theorem State.reg_vf_draw_eq_one_iff : (s.draw x y n).reg vf = 1 ↔
    ∃ r c, s.SpriteHit (s.reg x).toNat (s.reg y).toNat n.toNat r c ∧ s.disp.pixel r c = true := by
  rw [State.reg_vf_draw, flagByte_eq_one_iff, State.flag_drawSprite_iff]

theorem State.reg_vf_draw_eq_zero_iff : (s.draw x y n).reg vf = 0 ↔
    ¬∃ r c, s.SpriteHit (s.reg x).toNat (s.reg y).toNat n.toNat r c ∧ s.disp.pixel r c = true := by
  rw [State.reg_vf_draw, flagByte_eq_zero_iff, State.flag_drawSprite_iff]

theorem State.reg_draw_of_ne {z : Reg} (hz : z ≠ vf) : (s.draw x y n).reg z = s.reg z :=
  (State.reg_setReg _ vf z _).trans (if_neg hz)

/-- A draw with coordinates outside VF leaves the next draw of the same instruction the same sprite at the same place. -/
theorem State.spriteHit_draw {r : Fin 32} {c : Fin 64} (hx : x ≠ vf) (hy : y ≠ vf) :
    (s.draw x y n).advance.SpriteHit ((s.draw x y n).advance.reg x).toNat ((s.draw x y n).advance.reg y).toNat n.toNat r c ↔
      s.SpriteHit (s.reg x).toNat (s.reg y).toNat n.toNat r c := by
  rw [State.reg_advance, State.reg_advance, State.reg_draw_of_ne hx, State.reg_draw_of_ne hy]
  rfl

/-! ### When DRW draws and when it halts (R121, R235) -/

theorem exec_drw_of_inMemory (h : n.toNat = 0 ∨ s.i.toNat + n.toNat ≤ 4096) :
    exec (.drw x y n) s = .next (s.draw x y n).advance := by
  rw [exec, execDrw]
  rcases s.checked_cases (.drw x y n) n.toNat (s.draw x y n).advance with ⟨-, hdone⟩ | ⟨hpos, hout, -⟩
  · rw [hdone]
  · omega

theorem exec_drw_of_outOfMemory (hpos : 0 < n.toNat) (hout : 4096 < s.i.toNat + n.toNat) :
    exec (.drw x y n) s =
      .next (s.raiseIn (.drw x y n) .addressOutOfRange (some (BitVec.ofNat 17 (max s.i.toNat 0x1000)))) := by
  rw [exec, execDrw]
  rcases s.checked_cases (.drw x y n) n.toNat (s.draw x y n).advance with ⟨hin, -⟩ | ⟨-, -, hraise⟩
  · omega
  · rw [hraise]

end Draw

/-- An instruction's fatal condition writes the halt record and nothing else (R233). -/
theorem State.haltedBy_raiseIn (s : State) (i : Instr) (cause : HaltCause) (addr : Option (BitVec 17)) :
    s.HaltedBy (s.raiseIn i cause addr) cause (some (encode i)) (addr.map BitVec.toNat) :=
  ⟨rfl, rfl, rfl, rfl, rfl, rfl⟩

/-- An access past memory records the number max(I, 0x1000), which HALT_ADDR holds in full (R66, R235). -/
theorem State.haltedBy_outOfRange (s : State) (i : Instr) :
    s.HaltedBy (s.raiseIn i .addressOutOfRange (some (BitVec.ofNat 17 (max s.i.toNat 0x1000)))) .addressOutOfRange
      (some (encode i)) (some (max s.i.toNat 0x1000)) := by
  have hhalt := s.haltedBy_raiseIn i .addressOutOfRange (some (BitVec.ofNat 17 (max s.i.toNat 0x1000)))
  rwa [Option.map_some, spanFault_toNat] at hhalt

end Sys2Proof.Machine

namespace Sys2Proof

open Machine

/-! ### The statements -/

/-- Settles O31: every pixel of the clear buffer is 0, and CLS writes only the buffer and PC. -/
theorem clearZeroesDisplay : Obligations.ClearZeroesDisplay :=
  ⟨Instr.hasWord_of_encode rfl, fun _ => ⟨_, rfl, Display.pixel_clear, rfl, fun _ => rfl, rfl, ⟨rfl, rfl⟩, ⟨rfl, rfl⟩, fun _ => rfl,
    ⟨rfl, rfl, rfl, rfl, rfl, rfl, rfl, rfl⟩⟩⟩

/-- Settles O32: the bound check decides between the draw, whose pixels and flag follow the sprite's hits, and the halt. -/
theorem drawXorsSprite : Obligations.DrawXorsSprite := by
  intro x y n s
  refine ⟨Instr.hasWord_of_encode (packXYN_toNat (by decide) x y n), fun hin => ?_, fun hpos hout => ?_⟩
  · have hin' : n.toNat = 0 ∨ s.i.toNat + n.toNat ≤ 4096 := by
      rcases hin with rfl | hin
      · exact .inl rfl
      · omega
    refine ⟨_, exec_drw_of_inMemory hin', fun r c => State.pixel_draw_of_hit, fun r c => State.pixel_draw_of_not_hit,
      State.reg_vf_draw_eq_one_iff.mpr, fun hnone => ?_, rfl, fun z => State.reg_draw_of_ne, rfl, ⟨rfl, rfl⟩, ⟨rfl, rfl⟩, fun _ => rfl,
      ⟨rfl, rfl, rfl, rfl, rfl, rfl, rfl, rfl⟩⟩
    refine State.reg_vf_draw_eq_zero_iff.mpr ?_
    rintro ⟨r, c, hhit, hset⟩
    exact Bool.false_ne_true ((hnone r c hhit).symm.trans hset)
  · exact ⟨_, exec_drw_of_outOfMemory hpos (by omega), s.haltedBy_outOfRange _⟩

/-- Settles O33: both draws hit the same pixels, so the second inverts them back, and it collides where the first one set a pixel. -/
theorem secondDrawRestoresDisplay : Obligations.SecondDrawRestoresDisplay := by
  intro x y n s t u hx hy hin hfirst hsecond
  obtain rfl := Host.Outcome.next.inj (hfirst.symm.trans (exec_drw_of_inMemory (.inr hin)))
  obtain rfl := Host.Outcome.next.inj (hsecond.symm.trans (exec_drw_of_inMemory (.inr hin)))
  constructor
  · intro r c
    rw [State.advance_disp]
    by_cases hhit : s.SpriteHit (s.reg x).toNat (s.reg y).toNat n.toNat r c
    · rw [State.pixel_draw_of_hit ((State.spriteHit_draw hx hy).mpr hhit), State.advance_disp, State.pixel_draw_of_hit hhit,
        Bool.not_not]
    · rw [State.pixel_draw_of_not_hit (mt (State.spriteHit_draw hx hy).mp hhit), State.advance_disp,
        State.pixel_draw_of_not_hit hhit]
  · rw [State.reg_advance, State.reg_vf_draw_eq_one_iff]
    refine exists_congr fun r => exists_congr fun c => ?_
    rw [State.spriteHit_draw hx hy]
    refine and_congr_right fun hhit => ?_
    rw [State.advance_disp, State.pixel_draw_of_hit hhit, Bool.not_eq_true']

/-- Settles O34: CLS gives back the clear buffer of the first draw, and the second draws the same sprite at the same place on it. -/
theorem drawClearDrawEqualsDraw : Obligations.DrawClearDrawEqualsDraw := by
  intro x y n s t u v hx hy hin hclear hfirst hcls hsecond r c
  obtain rfl := Host.Outcome.next.inj (hfirst.symm.trans (exec_drw_of_inMemory (.inr hin)))
  obtain rfl := Host.Outcome.next.inj hcls
  obtain rfl := Host.Outcome.next.inj (hsecond.symm.trans (exec_drw_of_inMemory (.inr hin)))
  have hdisp : Display.clear = s.disp := Display.ext_pixel fun r c => (Display.pixel_clear r c).trans (hclear r c).symm
  rw [State.advance_disp, State.disp_draw, State.advance_disp, State.setDisp_disp, hdisp]
  simp only [State.reg_advance, State.reg_setDisp, State.reg_draw_of_ne hx, State.reg_draw_of_ne hy]
  rfl

end Sys2Proof
end

section
/-! PROOFS. Control flow (spec/41_control_flow.md): the frames of the jumps, the skips and the two stack instructions, when CALL and RET
halt, and what a run inside a call leaves of its return address. -/

namespace Sys2Proof.Machine

/-! ### Frames -/

theorem State.onlyPc_setPc (s : State) (w : Word) : s.OnlyPc (s.setPc w) :=
  ⟨fun _ => rfl, rfl, ⟨rfl, rfl⟩, ⟨rfl, rfl⟩, fun _ => rfl, fun _ _ => rfl, ⟨rfl, rfl, rfl, rfl, rfl, rfl, rfl, rfl⟩⟩

theorem State.onlyStackPc_mk (s : State) (entries : Vector Word 16) (depth : Fin 17) (w : Word) :
    s.OnlyStackPc { s with stack := entries, sp := depth, pc := w } :=
  ⟨fun _ => rfl, rfl, ⟨rfl, rfl⟩, fun _ => rfl, fun _ _ => rfl, ⟨rfl, rfl, rfl, rfl, rfl, rfl, rfl, rfl⟩⟩

/-! ### Skips (R24) -/

/-- A skip goes to PC + 4 where its condition holds and to PC + 2 where it does not. -/
theorem State.skipIf_spec (s : State) {cond : Bool} {taken passed : Prop} (htaken : taken → cond = true)
    (hpassed : passed → cond = false) :
    (taken → (s.skipIf cond).pc = s.pc + 4) ∧ (passed → (s.skipIf cond).pc = s.pc + 2) ∧ s.OnlyPc (s.skipIf cond) := by
  refine ⟨fun h => ?_, fun h => ?_, s.onlyPc_setPc _⟩
  · rw [htaken h, State.skipIf_pc, if_pos rfl]
  · rw [hpassed h, State.skipIf_pc, if_neg Bool.false_ne_true]

/-! ### CALL and RET on either side of the stack's ends (R140, R142) -/

theorem exec_call_of_room {nnn : Addr12} {s : State} (room : s.sp.val < 16) :
    exec (.call nnn) s = .next { s with
      stack := s.stack.set s.sp.val (s.pc + 2) room, sp := ⟨s.sp.val + 1, Nat.succ_lt_succ room⟩, pc := addrOf nnn } := by
  rcases s.push_cases (s.pc + 2) with ⟨hfull, -⟩ | ⟨_, _, hpush⟩
  · omega
  · rw [exec, execCall, hpush]
    rfl

theorem exec_call_of_full {nnn : Addr12} {s : State} (full : s.sp.val = 16) :
    exec (.call nnn) s = .next (s.raiseIn (.call nnn) .stackOverflow none) := by
  rcases s.push_cases (s.pc + 2) with ⟨-, hpush⟩ | ⟨hroom, -⟩
  · rw [exec, execCall, hpush]
  · omega

theorem exec_ret_of_top {s : State} {k : Fin 16} (top : s.sp.val = k.val + 1) :
    exec .ret s = .next { s with sp := k.castSucc, pc := s.stack[k] } := by
  rcases s.pop_cases with ⟨hempty, -⟩ | ⟨_, _, _, hpop⟩
  · omega
  · have hk : s.sp.val - 1 = k.val := by omega
    simp only [exec, execRet, hpop, hk]
    rfl

theorem exec_ret_of_empty {s : State} (empty : s.sp.val = 0) :
    exec .ret s = .next (s.raiseIn .ret .stackUnderflow none) := by
  rcases s.pop_cases with ⟨-, hpop⟩ | ⟨hpos, -⟩
  · rw [exec, execRet, hpop]
  · omega

/-! ### Inside a call (R148) -/

theorem InsideCall.deep {d : Nat} {s t : State} (h : InsideCall d s t) : d < t.sp.val := by
  cases h with
  | start deep => exact deep
  | next _ _ _ deep => exact deep

/-- A run that stays deeper than d keeps the entries up to d, since all of them are live all the way. -/
theorem InsideCall.stack_kept {d : Nat} {s t : State} (h : InsideCall d s t) (k : Fin 16) (hk : k.val ≤ d) :
    t.stack[k] = s.stack[k] := by
  induction h with
  | start => rfl
  | next before noReset moves _ ih =>
    exact ((Moves.of_step moves).stack_live noReset k (hk.trans_lt before.deep)).trans ih

end Sys2Proof.Machine

namespace Sys2Proof

open Machine

/-! ### The statements -/

/-- Settles O24: the run inside the call keeps the entry that CALL pushed, and RET at CALL's own depth pops it. -/
theorem returnMatchesItsCall : Obligations.ReturnMatchesItsCall := by
  intro nnn s a b c room hcall hinside hdepth hret
  obtain rfl := Host.Outcome.next.inj ((exec_call_of_room room).symm.trans hcall)
  obtain rfl := Host.Outcome.next.inj ((exec_ret_of_top (k := ⟨s.sp.val, room⟩) hdepth).symm.trans hret)
  exact ⟨(hinside.stack_kept ⟨s.sp.val, room⟩ le_rfl).trans (Vector.getElem_set_self room), rfl⟩

/-- Settles O35: the stack's depth decides between the push, which writes the entry at SP only, and the halt. -/
theorem callPushesReturnAddress : Obligations.CallPushesReturnAddress := by
  refine fun nnn s => ⟨Instr.hasWord_of_encode (packNNN_toNat (by decide) nnn), fun room => ?_, fun full => ?_⟩
  · exact ⟨_, exec_call_of_room room, rfl, Vector.getElem_set_self room,
      fun k hk => Vector.getElem_set_ne room k.isLt hk.symm, addrOf_toNat nnn, s.onlyStackPc_mk _ _ _⟩
  · exact ⟨_, exec_call_of_full full, s.haltedBy_raiseIn _ _ _⟩

/-- Settles O36: the stack's depth decides between the pop of the top entry, which is a live one, and the halt. -/
theorem returnPopsAddress : Obligations.ReturnPopsAddress := by
  refine ⟨Instr.hasWord_of_encode rfl, fun s => ⟨fun k top => ?_, fun empty => ?_⟩⟩
  · exact ⟨_, exec_ret_of_top top, rfl, fun hstack => hstack k (by omega), rfl, rfl, s.onlyStackPc_mk _ _ _⟩
  · exact ⟨_, exec_ret_of_empty empty, s.haltedBy_raiseIn _ _ _⟩

/-- Settles O37: both jumps set PC to their target, whose sum does not wrap. -/
theorem jumpsSetPc : Obligations.JumpsSetPc := fun nnn s =>
  ⟨Instr.hasWord_of_encode (packNNN_toNat (by decide) nnn), Instr.hasWord_of_encode (packNNN_toNat (by decide) nnn),
    ⟨_, rfl, addrOf_toNat nnn, s.onlyPc_setPc _⟩, ⟨_, rfl, offsetTarget_toNat nnn (s.reg 0), s.onlyPc_setPc _⟩⟩

/-- Settles O38: SE skips on equality, SNE on its negation. -/
theorem skipsOnImmediate : Obligations.SkipsOnImmediate := fun x nn s =>
  ⟨Instr.hasWord_of_encode (packXNN_toNat (by decide) x nn), Instr.hasWord_of_encode (packXNN_toNat (by decide) x nn),
    ⟨_, rfl, s.skipIf_spec beq_iff_eq.mpr beq_eq_false_iff_ne.mpr⟩,
    ⟨_, rfl, s.skipIf_spec bne_iff_ne.mpr bne_eq_false_iff_eq.mpr⟩⟩

/-- Settles O39: as on an immediate; the word's low nibble is carried along and not read. -/
theorem skipsOnRegisters : Obligations.SkipsOnRegisters := fun x y low s =>
  ⟨Instr.hasWord_of_encode (packXYN_toNat (by decide) x y low), Instr.hasWord_of_encode (packXYN_toNat (by decide) x y low),
    ⟨_, rfl, s.skipIf_spec beq_iff_eq.mpr beq_eq_false_iff_ne.mpr⟩,
    ⟨_, rfl, s.skipIf_spec bne_iff_ne.mpr bne_eq_false_iff_eq.mpr⟩⟩

end Sys2Proof
end

section
/-! PROOFS. Loads and the ALU (spec/42_load_alu.md): the frame of a register write, what R166 leaves for a flag and a result, and the
flags and results of R167 to R171 as numbers. -/

namespace Sys2Proof

/-- A word of group 8: the low nibble selects the operation (R97). -/
theorem packXYN_group8_toNat (x y : Reg) (n : Nibble) :
    (packXYN 0x8 x y n).toNat = 0x8000 + n.toNat + x.val * 0x100 + y.val * 0x10 := by
  rw [packXYN_toNat (by decide)]
  omega

end Sys2Proof

namespace Sys2Proof.Machine

/-! ### Frames -/

theorem State.reg_advance_setReg_self (s : State) (x : Reg) (b : Byte) : (s.setReg x b).advance.reg x = b :=
  (s.reg_setReg x x b).trans (if_pos rfl)

theorem State.onlyRegPc_setReg (s : State) (x : Reg) (b : Byte) : s.OnlyRegPc (s.setReg x b).advance x :=
  ⟨fun z hz => (s.reg_setReg x z b).trans (if_neg hz), rfl, ⟨rfl, rfl⟩, ⟨rfl, rfl⟩, fun _ => rfl, fun _ _ => rfl,
    ⟨rfl, rfl, rfl, rfl, rfl, rfl, rfl, rfl⟩⟩

/-- Steps 3 and 4 of R166 leave the flag and the result that they are given, whatever x is. -/
theorem State.flaggedResult_setFlagged (s : State) (x : Reg) {flag : Bool} {b : Byte} {f r : Nat} (hf : flag.toNat = f)
    (hr : b.toNat = r) : s.FlaggedResult (s.setFlagged x flag b).advance x f r := by
  refine ⟨?_, fun hx => ?_, fun z hzx hzf => ?_,
    ⟨rfl, ⟨rfl, rfl⟩, ⟨rfl, rfl⟩, fun _ => rfl, fun _ _ => rfl, ⟨rfl, rfl, rfl, rfl, rfl, rfl, rfl, rfl⟩⟩, rfl⟩
  · rw [State.reg_advance, State.reg_setFlagged, if_pos rfl, hr]
  · rw [State.reg_advance, State.reg_setFlagged, if_neg hx.symm, if_pos rfl, flagByte_toNat, hf]
  · rw [State.reg_advance, State.reg_setFlagged, if_neg hzx, if_neg hzf]

/-! ### Flags and results as numbers (R167 to R171) -/

theorem carryOut_toNat (a b : Byte) : (carryOut a b).toNat = if 255 < a.toNat + b.toNat then 1 else 0 :=
  Bool.cond_decide _ 1 0

theorem noBorrow_toNat (a b : Byte) : (noBorrow a b).toNat = if b.toNat ≤ a.toNat then 1 else 0 :=
  Bool.cond_decide _ 1 0

theorem outRight_toNat (a : Byte) : (outRight a).toNat = a.toNat % 2 := by
  rw [outRight, BitVec.getLsbD, Nat.toNat_testBit, Nat.pow_zero, Nat.div_one]

theorem outLeft_toNat (a : Byte) : (outLeft a).toNat = a.toNat / 128 := by
  have := a.isLt
  rw [outLeft, BitVec.getLsbD, Nat.toNat_testBit]
  omega

/-- The model's difference is the spec's, which adds 256 before it subtracts. -/
theorem sub_toNat (a b : Byte) : (a - b).toNat = (a.toNat + 256 - b.toNat) % 256 := by
  have := b.isLt
  rw [BitVec.toNat_sub]
  omega

theorem shiftRight_one_toNat (a : Byte) : (a >>> 1).toNat = a.toNat / 2 := by
  rw [BitVec.toNat_ushiftRight, Nat.shiftRight_one]

theorem shiftLeft_one_toNat (a : Byte) : (a <<< 1).toNat = a.toNat * 2 % 256 := by
  rw [BitVec.toNat_shiftLeft, Nat.shiftLeft_eq, Nat.pow_one]

end Sys2Proof.Machine

namespace Sys2Proof

open Machine

/-! ### The statements -/

/-- Settles O42: R166 with the carry and the 8-bit sum. -/
theorem addSetsCarry : Obligations.AddSetsCarry := fun x y s =>
  ⟨Instr.hasWord_of_encode (packXYN_group8_toNat x y 4),
    ⟨_, rfl, s.flaggedResult_setFlagged x (carryOut_toNat _ _) (BitVec.toNat_add _ _)⟩⟩

/-- Settles O43: R166 with the no-borrow flag and the 8-bit difference; SUBN exchanges the operands. -/
theorem subtractionsSetNoBorrow : Obligations.SubtractionsSetNoBorrow := fun x y s =>
  ⟨Instr.hasWord_of_encode (packXYN_group8_toNat x y 5), Instr.hasWord_of_encode (packXYN_group8_toNat x y 7),
    ⟨_, rfl, s.flaggedResult_setFlagged x (noBorrow_toNat _ _) (sub_toNat _ _)⟩,
    ⟨_, rfl, s.flaggedResult_setFlagged x (noBorrow_toNat _ _) (sub_toNat _ _)⟩⟩

/-- Settles O44: R166 with the bit that the shift loses; the model's shifts are not given y. -/
theorem shiftsSetBitShiftedOut : Obligations.ShiftsSetBitShiftedOut := fun x y s =>
  ⟨Instr.hasWord_of_encode (packXYN_group8_toNat x y 6), Instr.hasWord_of_encode (packXYN_group8_toNat x y 0xE),
    ⟨_, rfl, s.flaggedResult_setFlagged x (outRight_toNat _) (shiftRight_one_toNat _)⟩,
    ⟨_, rfl, s.flaggedResult_setFlagged x (outLeft_toNat _) (shiftLeft_one_toNat _)⟩⟩

/-- Settles O40: one register write each; the sum of bytes is modulo 256. -/
theorem immediateForms : Obligations.ImmediateForms := by
  refine fun x nn s => ⟨Instr.hasWord_of_encode (packXNN_toNat (by decide) x nn),
    Instr.hasWord_of_encode (packXNN_toNat (by decide) x nn), ⟨_, rfl, s.reg_advance_setReg_self x nn, rfl, s.onlyRegPc_setReg x nn⟩,
    ⟨_, rfl, ?_, rfl, s.onlyRegPc_setReg x _⟩⟩
  rw [State.reg_advance_setReg_self, BitVec.toNat_add]

/-- Settles O41: one register write each, of a copy or of the operation bit by bit. -/
theorem copyAndLogic : Obligations.CopyAndLogic := by
  refine fun x y s => ⟨Instr.hasWord_of_encode (packXYN_group8_toNat x y 0), Instr.hasWord_of_encode (packXYN_group8_toNat x y 1),
    Instr.hasWord_of_encode (packXYN_group8_toNat x y 2), Instr.hasWord_of_encode (packXYN_group8_toNat x y 3),
    ⟨_, rfl, s.reg_advance_setReg_self x _, rfl, s.onlyRegPc_setReg x _⟩, ⟨_, rfl, fun k => ?or, rfl, s.onlyRegPc_setReg x _⟩,
    ⟨_, rfl, fun k => ?and, rfl, s.onlyRegPc_setReg x _⟩, ⟨_, rfl, fun k => ?xor, rfl, s.onlyRegPc_setReg x _⟩⟩
  case or => rw [State.reg_advance_setReg_self, BitVec.getLsbD_or]
  case and => rw [State.reg_advance_setReg_self, BitVec.getLsbD_and]
  case xor => rw [State.reg_advance_setReg_self, BitVec.getLsbD_xor]

/-- Settles O45: one register write, of the supplied byte under the mask. -/
theorem randomIsMasked : Obligations.RandomIsMasked := by
  refine fun x nn s => ⟨Instr.hasWord_of_encode (packXNN_toNat (by decide) x nn),
    ⟨_, rfl, fun k => ?bits, fun hnone => ?none, fun hall => ?all, rfl, s.onlyRegPc_setReg x _⟩⟩
  case bits => rw [State.reg_advance_setReg_self, BitVec.getLsbD_and]
  case none =>
    subst hnone
    exact (s.reg_advance_setReg_self x _).trans BitVec.and_zero
  case all =>
    subst hall
    exact (s.reg_advance_setReg_self x _).trans BitVec.and_allOnes

end Sys2Proof
end

section
/-! PROOFS. The address register and the memory transfers (spec/43_index_memory.md): the bound check on either side of the end of
memory, the frames of a write to I, of a block store and of a block load, and what LD B stores and LD Vx,[I] loads. -/

namespace Sys2Proof

/-- A word of group F: the low byte selects the operation (R97). -/
theorem packXNN_groupF_toNat (x : Reg) (nn : Byte) : (packXNN 0xF x nn).toNat = 0xF000 + nn.toNat + x.val * 0x100 := by
  rw [packXNN_toNat (by decide)]
  omega

end Sys2Proof

namespace Sys2Proof.Machine

/-! ### The bound check on either side of the end of memory (R66, R235) -/

theorem State.checked_of_inMemory {s done : State} {i : Instr} {n : Nat} (h : s.i.toNat + n ≤ 4096) : s.checked i n done = done := by
  rcases s.checked_cases i n done with ⟨-, hdone⟩ | ⟨-, hout, -⟩
  · exact hdone
  · omega

theorem State.haltedBy_checked {s : State} (done : State) (i : Instr) {n : Nat} (hpos : 0 < n) (hout : 4096 < s.i.toNat + n) :
    s.HaltedBy (s.checked i n done) .addressOutOfRange (some (encode i)) (some (max s.i.toNat 0x1000)) := by
  rcases s.checked_cases i n done with ⟨hin, -⟩ | ⟨-, -, hraise⟩
  · omega
  · rw [hraise]
    exact s.haltedBy_outOfRange i

/-! ### Frames -/

theorem State.onlyIndexPc_setI (s : State) (w : Word) : s.OnlyIndexPc (s.setI w).advance :=
  ⟨fun _ => rfl, ⟨rfl, rfl⟩, ⟨rfl, rfl⟩, fun _ => rfl, fun _ _ => rfl, ⟨rfl, rfl, rfl, rfl, rfl, rfl, rfl, rfl⟩⟩

theorem State.onlyMemPc_writeBlock (s : State) (a : Nat) {bs : List Byte} {n : Nat} (hlen : bs.length = n) :
    s.OnlyMemPc (s.writeBlock a bs).advance a n := by
  subst hlen
  exact ⟨fun _ => rfl, rfl, ⟨rfl, rfl⟩, ⟨rfl, rfl⟩, fun b hout => (s.readByte_writeBlock a bs b).trans (dif_neg hout), fun _ _ => rfl,
    ⟨rfl, rfl, rfl, rfl, rfl, rfl, rfl, rfl⟩⟩

theorem State.onlyRegsPc_setRegsFrom (s : State) (k : Nat) (bs : List Byte) : s.OnlyRegsPc (s.setRegsFrom k bs).advance := by
  rw [State.setRegsFrom_eq]
  exact ⟨rfl, ⟨rfl, rfl⟩, ⟨rfl, rfl⟩, fun _ => rfl, fun _ _ => rfl, ⟨rfl, rfl, rfl, rfl, rfl, rfl, rfl, rfl⟩⟩

theorem State.setRegsFrom_pc (s : State) (k : Nat) (bs : List Byte) : (s.setRegsFrom k bs).pc = s.pc := by
  rw [State.setRegsFrom_eq]

/-! ### Values of I (R191, R192) -/

theorem indexPlus_toNat (i : Word) (b : Byte) : (indexPlus i b).toNat = (i.toNat + b.toNat) % 65536 := by
  rw [indexPlus, BitVec.toNat_add, BitVec.toNat_setWidth_of_le (by decide)]

/-- The last glyph address, 0x050 + 255 * 5, fits in 16 bits. -/
theorem glyphAddr_toNat (b : Byte) : (glyphAddr b).toNat = 0x050 + b.toNat * 5 := by
  have := b.isLt
  rw [glyphAddr, BitVec.toNat_ofNat, Nat.mod_eq_of_lt (by omega)]

/-! ### Digits (R193) -/

/-- A number that is at most a byte's, as its decimal digits are, keeps its value when it becomes a byte itself. -/
theorem toNat_ofNat_of_le_byte {b : Byte} {d : Nat} (h : d ≤ b.toNat) : (BitVec.ofNat 8 d).toNat = d := by
  rw [BitVec.toNat_ofNat, Nat.mod_eq_of_lt (h.trans_lt b.isLt)]

/-! ### Blocks between registers and memory (R193 to R195) -/

theorem State.readByte_writeBlock_add (s : State) (a : Nat) (bs : List Byte) {k : Nat} (hk : k < bs.length) :
    (s.writeBlock a bs).readByte (a + k) = bs[k] := by
  rw [State.readByte_writeBlock, dif_pos (by omega)]
  simp only [Nat.add_sub_cancel_left]

theorem State.readByte_writeBlock_bcdDigits (s : State) (a : Nat) (b : Byte) :
    ((s.writeBlock a (bcdDigits b)).readByte a).toNat = b.toNat / 100 ∧
      ((s.writeBlock a (bcdDigits b)).readByte (a + 1)).toNat = b.toNat / 10 % 10 ∧
      ((s.writeBlock a (bcdDigits b)).readByte (a + 2)).toNat = b.toNat % 10 := by
  have hbyte : ∀ k (hk : k < 3), (s.writeBlock a (bcdDigits b)).readByte (a + k) = (bcdDigits b)[k]'hk :=
    fun k hk => s.readByte_writeBlock_add a (bcdDigits b) hk
  have htens : b.toNat / 10 % 10 ≤ b.toNat := (Nat.mod_le _ _).trans (Nat.div_le_self _ _)
  exact ⟨(congrArg BitVec.toNat (hbyte 0 (by decide))).trans (toNat_ofNat_of_le_byte (Nat.div_le_self _ _)),
    (congrArg BitVec.toNat (hbyte 1 (by decide))).trans (toNat_ofNat_of_le_byte htens),
    (congrArg BitVec.toNat (hbyte 2 (by decide))).trans (toNat_ofNat_of_le_byte (Nat.mod_le _ _))⟩

/-- A block load gives V0..Vx the bytes from a on and leaves the registers above Vx. -/
theorem State.reg_setRegsFrom_readBlock (s : State) (a : Nat) (x z : Reg) :
    (s.setRegsFrom 0 (s.readBlock a (regCount x))).reg z = if z ≤ x then s.readByte (a + z.val) else s.reg z := by
  have hlen : (s.readBlock a (regCount x)).length = x.val + 1 := s.length_readBlock a _
  have hx := x.isLt
  rw [State.reg_setRegsFrom _ _ _ (by omega)]
  by_cases hz : z ≤ x
  · have hzx : z.val ≤ x.val := hz
    rw [dif_pos (by omega), if_pos hz, State.getElem_readBlock, Nat.sub_zero]
  · have hzx : ¬z.val ≤ x.val := hz
    rw [dif_neg (by omega), if_neg hz]

end Sys2Proof.Machine

namespace Sys2Proof

open Machine

/-! ### The statements -/

/-- Settles O47: the bound check decides between the store of the three digits and the halt. -/
theorem bcdStoresDigits : Obligations.BcdStoresDigits := by
  refine fun x s => ⟨Instr.hasWord_of_encode (packXNN_groupF_toNat x 0x33), fun hin => ?_, fun hout => ?_⟩
  · obtain ⟨hhundreds, htens, hones⟩ := s.readByte_writeBlock_bcdDigits s.i.toNat (s.reg x)
    exact ⟨_, congrArg Host.Outcome.next (State.checked_of_inMemory hin), hhundreds, htens, hones, rfl, s.onlyMemPc_writeBlock _ rfl⟩
  · exact ⟨_, rfl, State.haltedBy_checked _ _ (by decide) (Nat.lt_succ_of_le hout)⟩

/-- Settles O48: the bound check decides between the store of V0..Vx and the halt. -/
theorem storeRegistersAtI : Obligations.StoreRegistersAtI := by
  refine fun x s => ⟨Instr.hasWord_of_encode (packXNN_groupF_toNat x 0x55), fun hin => ?_, fun hout => ?_⟩
  · exact ⟨_, exec_storeRegs_of_inMemory hin, fun z hz => s.readByte_writeBlock_regsUpTo _ hz, rfl,
      s.onlyMemPc_writeBlock _ (s.length_regsUpTo x)⟩
  · exact ⟨_, rfl, State.haltedBy_checked _ _ (Nat.succ_pos _) (Nat.lt_succ_of_le hout)⟩

/-- Settles O49: the bound check decides between the load of V0..Vx, whose bytes are all of the memory before it, and the halt. -/
theorem loadRegistersFromI : Obligations.LoadRegistersFromI := by
  refine fun x s => ⟨Instr.hasWord_of_encode (packXNN_groupF_toNat x 0x65), fun hin => ?_, fun hout => ?_⟩
  · have hreg := s.reg_setRegsFrom_readBlock s.i.toNat x
    exact ⟨_, congrArg Host.Outcome.next (State.checked_of_inMemory hin), fun z hz => (hreg z).trans (if_pos hz),
      fun z hz => (hreg z).trans (if_neg hz.not_ge), congrArg (· + 2) (s.setRegsFrom_pc 0 _), s.onlyRegsPc_setRegsFrom 0 _⟩
  · exact ⟨_, rfl, State.haltedBy_checked _ _ (Nat.succ_pos _) (Nat.lt_succ_of_le hout)⟩

/-- Settles O46: one write to I each; only ADD I's sum can wrap. -/
theorem indexWrites : Obligations.IndexWrites := fun nnn x s =>
  ⟨Instr.hasWord_of_encode (packNNN_toNat (by decide) nnn), Instr.hasWord_of_encode (packXNN_groupF_toNat x 0x1E),
    Instr.hasWord_of_encode (packXNN_groupF_toNat x 0x29), ⟨_, rfl, addrOf_toNat nnn, rfl, s.onlyIndexPc_setI _⟩,
    ⟨_, rfl, indexPlus_toNat s.i (s.reg x), rfl, s.onlyIndexPc_setI _⟩, ⟨_, rfl, glyphAddr_toNat (s.reg x), rfl, s.onlyIndexPc_setI _⟩⟩

end Sys2Proof
end

section
/-! PROOFS. Keypad and timers (spec/44_keypad_timers.md): the question whether a key is down, both answers to a wait for a key, and the
frame of a write to a timer. -/

namespace Sys2Proof

/-- A word of group E: the low byte selects the operation (R97). -/
theorem packXNN_groupE_toNat (x : Reg) (nn : Byte) : (packXNN 0xE x nn).toNat = 0xE000 + nn.toNat + x.val * 0x100 := by
  rw [packXNN_toNat (by decide)]
  omega

end Sys2Proof

namespace Sys2Proof.Machine

/-! ### Is the key down? (R209) -/

theorem State.pressed_eq_true_iff (s : State) (k : Byte) :
    s.pressed k = true ↔ k.toNat ≤ 0xF ∧ s.sample.keysDown.getLsbD k.toNat = true := by
  rw [State.pressed, Bool.and_eq_true, decide_eq_true_iff]

theorem State.pressed_eq_false_iff (s : State) (k : Byte) :
    s.pressed k = false ↔ 0xF < k.toNat ∨ s.sample.keysDown.getLsbD k.toNat = false := by
  rw [State.pressed, Bool.and_eq_false_iff, decide_eq_false_iff_not, Nat.not_le]

/-! ### The wait for a key (R212) -/

theorem exec_ldVxK_of_noEvent {x : Reg} {s : State} (h : s.sample.keyEvent = none) : exec (.ldVxK x) s = .next s := by
  rw [exec, execLdVxK, h]
  rfl

theorem exec_ldVxK_of_event {x : Reg} {s : State} {k : Fin 16} (h : s.sample.keyEvent = some k) :
    exec (.ldVxK x) s = .next (s.setReg x (BitVec.ofNat 8 k.val)).advance := by
  rw [exec, execLdVxK, h]
  rfl

/-- A key's code fits in a register. -/
theorem keyCode_toNat (k : Fin 16) : (BitVec.ofNat 8 k.val).toNat = k.val := by
  have := k.isLt
  rw [BitVec.toNat_ofNat, Nat.mod_eq_of_lt (by omega)]

/-! ### The timers (R214, R215) -/

/-- The frame of an instruction that writes timers and PC and nothing else; which timer is said beside it. -/
def State.OnlyTimersPc (s t : State) : Prop :=
  s.SameRegs t ∧ t.i = s.i ∧ s.SameStack t ∧ s.SameMem t ∧ s.SameDisp t ∧ s.SameBase t

theorem State.onlyTimersPc_mk (s : State) (delay sound : Byte) (w : Word) :
    s.OnlyTimersPc { s with dt := delay, st := sound, pc := w } :=
  ⟨fun _ => rfl, rfl, ⟨rfl, rfl⟩, fun _ => rfl, fun _ _ => rfl, ⟨rfl, rfl, rfl, rfl, rfl, rfl, rfl, rfl⟩⟩

theorem State.soundActive_eq_true_iff (s : State) : s.soundActive = true ↔ 0 < s.st.toNat :=
  decide_eq_true_iff

end Sys2Proof.Machine

namespace Sys2Proof

open Machine

/-! ### The statements -/

/-- Settles O51: SKP skips on Pressed, SKNP on its negation, which exchanges the two branches. -/
theorem skipsOnKey : Obligations.SkipsOnKey := by
  intro x s
  have hdown := (s.pressed_eq_true_iff (s.reg x)).mpr
  have hup := (s.pressed_eq_false_iff (s.reg x)).mpr
  obtain ⟨hskp, hskpNot, hskpFrame⟩ := s.skipIf_spec hdown hup
  obtain ⟨hsknp, hsknpNot, hsknpFrame⟩ :=
    s.skipIf_spec (fun h => (Bool.not_eq_true' _).mpr (hup h)) (fun h => (Bool.not_eq_false' _).mpr (hdown h))
  exact ⟨Instr.hasWord_of_encode (packXNN_groupE_toNat x 0x9E), Instr.hasWord_of_encode (packXNN_groupE_toNat x 0xA1),
    ⟨_, rfl, hskpFrame, hskp, hskpNot⟩, ⟨_, rfl, hsknpFrame, hsknpNot, hsknp⟩⟩

/-- Settles O52: the key event decides between the wait and one register write. -/
theorem keyWaitReissues : Obligations.KeyWaitReissues := by
  refine fun x s => ⟨Instr.hasWord_of_encode (packXNN_groupF_toNat x 0x0A), exec_ldVxK_of_noEvent, fun k hk => ?_⟩
  refine ⟨_, exec_ldVxK_of_event hk, ?_, rfl, s.onlyRegPc_setReg x _⟩
  rw [State.reg_advance_setReg_self, keyCode_toNat]

/-- Settles O54: one register write from DT, and one timer write each from V[x]. -/
theorem timerTransfers : Obligations.TimerTransfers := fun x s =>
  ⟨Instr.hasWord_of_encode (packXNN_groupF_toNat x 0x07), Instr.hasWord_of_encode (packXNN_groupF_toNat x 0x15),
    Instr.hasWord_of_encode (packXNN_groupF_toNat x 0x18),
    ⟨_, rfl, s.reg_advance_setReg_self x s.dt, rfl, s.onlyRegPc_setReg x s.dt⟩,
    ⟨_, rfl, rfl, rfl, rfl, s.onlyTimersPc_mk (s.reg x) s.st _⟩,
    ⟨_, rfl, rfl, State.soundActive_eq_true_iff _, rfl, rfl, s.onlyTimersPc_mk s.dt (s.reg x) _⟩⟩

end Sys2Proof
end

section
/-! PROOFS. Halts, unsupported words and ticks (spec/60_exceptions.md): what an instruction does to the halt record, what a step does in
each phase of R231 and on a tick, and the statements derived from them. -/

namespace Sys2Proof.Machine

/-! ### What an instruction does to the halt record (R233 to R235) -/

/-- Every state an instruction can lead to, by what it does to the halt record: one of the three fatal conditions is recorded, exactly
where the instruction raises it, or the record stays as it was. -/
inductive Halting (i : Instr) (s : State) : State → Prop where
  | overflow (raises : i.Raises s) : Halting i s (s.raiseIn i .stackOverflow none)
  | underflow (raises : i.Raises s) : Halting i s (s.raiseIn i .stackUnderflow none)
  | outOfRange (raises : i.Raises s) :
      Halting i s (s.raiseIn i .addressOutOfRange (some (BitVec.ofNat 17 (max s.i.toNat 0x1000))))
  | kept {t : State} (quiet : ¬i.Raises s) (status : t.status = s.status) : Halting i s t

/-- A checked access raises AddressOutOfRange exactly where its bound check fails (R66, R235). -/
theorem Halting.checked {i : Instr} {s done : State} {n : Nat} (hraises : i.Raises s ↔ 0 < n ∧ 4096 < s.i.toNat + n)
    (hdone : done.status = s.status) : Halting i s (s.checked i n done) := by
  rcases s.checked_cases i n done with ⟨hin, h⟩ | ⟨hpos, hout, h⟩
  · rw [h]
    exact .kept (fun hr => by have := hraises.mp hr; omega) hdone
  · rw [h]
    exact .outOfRange (hraises.mpr ⟨hpos, hout⟩)

theorem State.setRegsFrom_status (s : State) (k : Nat) (bs : List Byte) : (s.setRegsFrom k bs).status = s.status := by
  rw [State.setRegsFrom_eq]

theorem State.takeKey_status (s : State) (x : Reg) (event : Option (Fin 16)) : (s.takeKey x event).status = s.status := by
  cases event <;> rfl

theorem exec_ret_halting (s : State) : ∃ t, exec .ret s = .next t ∧ Halting .ret s t := by
  by_cases hempty : s.sp.val = 0
  · exact ⟨_, exec_ret_of_empty hempty, .underflow hempty⟩
  · have htop : s.sp.val - 1 < 16 := by omega
    exact ⟨_, exec_ret_of_top (k := ⟨_, htop⟩) (Nat.sub_add_cancel (Nat.pos_of_ne_zero hempty)).symm, .kept hempty rfl⟩

theorem exec_call_halting (nnn : Addr12) (s : State) : ∃ t, exec (.call nnn) s = .next t ∧ Halting (.call nnn) s t := by
  by_cases hfull : s.sp.val = 16
  · exact ⟨_, exec_call_of_full hfull, .overflow hfull⟩
  · exact ⟨_, exec_call_of_room (by omega), .kept hfull rfl⟩

/-- RET, CALL and the four instructions that access memory from I can raise; the others keep the halt record. -/
theorem exec_halting (i : Instr) (s : State) : ∃ t, exec i s = .next t ∧ Halting i s t := by
  cases i with
  | ret => exact exec_ret_halting s
  | call nnn => exact exec_call_halting nnn s
  | drw x y n => exact ⟨_, rfl, .checked (by simp only [Instr.Raises]; omega) rfl⟩
  | ldB x => exact ⟨_, rfl, .checked (by simp only [Instr.Raises]; omega) rfl⟩
  | storeRegs x => exact ⟨_, rfl, .checked (by simp only [Instr.Raises, regCount]; omega) rfl⟩
  | loadRegs x => exact ⟨_, rfl, .checked (by simp only [Instr.Raises, regCount]; omega) (s.setRegsFrom_status 0 _)⟩
  | ldVxK x => exact ⟨_, rfl, .kept not_false (s.takeKey_status x _)⟩
  | _ => exact ⟨_, rfl, .kept not_false rfl⟩

theorem Halting.of_exec {i : Instr} {s t : State} (h : exec i s = .next t) : Halting i s t := by
  obtain ⟨u, hu, hhalt⟩ := exec_halting i s
  obtain rfl := Host.Outcome.next.inj (hu.symm.trans h)
  exact hhalt

/-! ### A step of a Halted core (R239, R241) -/

theorem step_of_halted {s : State} (hrun : s.status.run = .halted)
    (hreq : s.nextInput.request = .doStep ∨ s.nextInput.request = .doTick) : step s = .next s.present := by
  rcases hreq with hreq | hreq
  · rw [step, hostStep, hreq, serve, instructionStep, State.present_status, hrun]
  · rw [step, hostStep, hreq, serve, State.tick, State.present_status, hrun]

/-! ### An instruction step of a Running core, phase by phase (R231) -/

section InstructionStep

variable {s : State} (hrun : s.status.run = .running) (hreq : s.nextInput.request = .doStep)
include hrun hreq

theorem step_of_outside (hout : s.inProgram = false) : step s = .next (s.present.raise .programExhausted none none) := by
  simp only [step, hostStep, hreq, serve, instructionStep, State.present_status, hrun, State.inProgram_present, hout,
    Bool.false_eq_true, if_false]

theorem step_of_fetch_error {a : BitVec 17} (hin : s.inProgram = true) (hf : s.fetch = .error a) :
    step s = .next (s.present.raise .addressOutOfRange none (some a)) := by
  simp only [step, hostStep, hreq, serve, instructionStep, State.present_status, hrun, State.inProgram_present, hin, if_true,
    State.fetch_present, hf]

theorem step_of_fetch_ok {w : Word} (hin : s.inProgram = true) (hf : s.fetch = .ok w) : step s = execWord w s.present := by
  simp only [step, hostStep, hreq, serve, instructionStep, State.present_status, hrun, State.inProgram_present, hin, if_true,
    State.fetch_present, hf]

end InstructionStep

/-- A halt writes the halt record and nothing else (R232, R233). -/
theorem State.haltedBy_raise (s : State) (cause : HaltCause) (insn : Option Word) (addr : Option (BitVec 17)) :
    s.HaltedBy (s.raise cause insn addr) cause insn (addr.map BitVec.toNat) :=
  ⟨rfl, rfl, rfl, rfl, rfl, rfl⟩

/-! ### Ticks of a Running core (R245) -/

theorem step_of_tick {s : State} (hrun : s.status.run = .running) (hreq : s.nextInput.request = .doTick) :
    step s = .next ((s.present.setDt (tickDown s.dt)).setSt (tickDown s.st)) := by
  rw [step, hostStep, hreq, serve, State.tick, State.present_status, hrun]
  rfl

theorem tickDown_of_zero {b : Byte} (hzero : b = 0) : tickDown b = 0 := congrArg tickDown hzero

theorem tickDown_toNat_add_one {b : Byte} (hpos : 0 < b.toNat) : (tickDown b).toNat + 1 = b.toNat := by
  rw [tickDown_toNat, Nat.sub_add_cancel hpos]

theorem State.nextInput_of_script {s : State} {input : HostInput} {rest : List HostInput} (h : s.script = input :: rest) :
    s.nextInput = input := by
  rw [State.nextInput, h]

theorem run_succ_of_step {n : Nat} {s t : State} (h : step s = .next t) : core.run (n + 1) s = core.run n t := by
  have hstep : core.step s = .next t := h
  simp only [Host.Core.run, hstep]

end Sys2Proof.Machine

namespace Sys2Proof

open Machine

/-! ### The statements -/

/-- Settles O12: of the ways to leave the halt record only the three fatal conditions change it. -/
theorem fatalHaltIsPrecise : Obligations.FatalHaltIsPrecise := by
  intro i s t h hne
  cases Halting.of_exec h with
  | overflow => exact .inl (s.haltedBy_raiseIn i _ none)
  | underflow => exact .inr (.inl (s.haltedBy_raiseIn i _ none))
  | outOfRange => exact .inr (.inr (s.haltedBy_outOfRange i))
  | kept _ status => exact absurd status hne

/-- Settles O13: a fatal condition halts where it is raised, and a kept record is a Running one. -/
theorem instructionsHaltExactlyWhen : Obligations.InstructionsHaltExactlyWhen := by
  intro i s t hrun h
  cases Halting.of_exec h with
  | overflow raises => exact iff_of_true rfl raises
  | underflow raises => exact iff_of_true rfl raises
  | outOfRange raises => exact iff_of_true rfl raises
  | kept quiet status => exact iff_of_false (by rw [status, hrun]; exact nofun) quiet

/-- Settles O14: without a reset a Halted core answers its presented state, which is Halted. -/
theorem haltedUntilReset : Obligations.HaltedUntilReset := by
  refine ⟨fun s hrun hreq => ⟨_, step_of_halted hrun hreq, rfl, rfl⟩, fun s t hrun h hrun' => ?_⟩
  have hfrozen : ¬(s.nextInput.request = .doStep ∨ s.nextInput.request = .doTick) := by
    intro hreq
    obtain rfl := Host.Outcome.next.inj (h.symm.trans (step_of_halted hrun hreq))
    exact nomatch hrun.symm.trans hrun'
  cases hreq : s.nextInput.request with
  | doStep => exact absurd (.inl hreq) hfrozen
  | doTick => exact absurd (.inr hreq) hfrozen
  | resetLoad rom p => exact ⟨rom, p, rfl⟩

/-- Settles O16, by induction on the number of ticks: each takes one from both timers and its input from the script. -/
theorem ticksCountDownToZero : Obligations.TicksCountDownToZero := by
  intro n m rest
  induction n with
  | zero => exact fun s _ hscript => ⟨s, rfl, rfl, rfl, rfl, hscript⟩
  | succ n ih =>
    intro s hrun hscript
    rw [List.replicate_succ, List.cons_append] at hscript
    have hreq : s.nextInput.request = .doTick := by rw [State.nextInput_of_script hscript]
    obtain ⟨t, ht, hdt, hst, hpc, hrest⟩ :=
      ih ((s.present.setDt (tickDown s.dt)).setSt (tickDown s.st)) hrun (congrArg List.tail hscript)
    simp only [State.setSt_dt, State.setDt_dt, State.setSt_st, tickDown_toNat] at hdt hst
    exact ⟨t, (run_succ_of_step (step_of_tick hrun hreq)).trans ht, by omega, by omega, hpc, hrest⟩

/-- Settles O6: the fetch gives the two bytes at PC as a word, which decodes. -/
theorem stepRunsDecodedInstruction : Obligations.StepRunsDecodedInstruction := by
  intro s i hrun hreq hlow hhigh hmem hdecode
  have hword := step_of_fetch_ok hrun hreq (State.inProgram_iff.mpr ⟨hlow, hhigh⟩) (State.fetch_eq_ok hmem)
  rw [hword, execWord, combineBytes, hdecode]
  rfl

/-- Settles O8: PC fails one of the two bounds of the program. -/
theorem programExhaustionHalts : Obligations.ProgramExhaustionHalts := by
  intro s hrun hreq hpc
  have hout : s.inProgram = false := by
    rw [← Bool.not_eq_true, State.inProgram_iff]
    omega
  exact ⟨_, step_of_outside hrun hreq hout, s.present.haltedBy_raise _ none none⟩

/-- Settles O9: 0xFFF is the last address of a full program, and the fetch fails there. -/
theorem fetchPastMemoryHalts : Obligations.FetchPastMemoryHalts := by
  intro s hrun hreq hpc hrom
  have hpc' : s.pc.toNat = 0xFFF := congrArg BitVec.toNat hpc
  have hin : s.inProgram = true := State.inProgram_iff.mpr (by omega)
  have hfetch : s.fetch = .error 0x1000 := (fetchIsBigEndian s).2 hpc'
  exact ⟨_, step_of_fetch_error hrun hreq hin hfetch, s.present.haltedBy_raise _ none (some 0x1000)⟩

/-- Settles O10: a word fetched inside the program has PC at most 0xFFE, so PC + 2 does not wrap. -/
theorem unsupportedWordIsNoOp : Obligations.UnsupportedWordIsNoOp := by
  intro s w hrun hreq hin hfetch hdecode
  have hstep : step s = .next (s.present.unsupported w) := by
    rw [step_of_fetch_ok hrun hreq hin hfetch, execWord, hdecode]
  obtain ⟨-, hpc⟩ := pc_range_of_fetch hin hfetch
  refine ⟨_, hstep, ?_, rfl, rfl⟩
  rw [State.unsupported_pc, State.present_pc]
  bv_omega

/-- Settles O15: both timers go through tickDown, whichever side of 0 they are on. -/
theorem tickLowersBothTimers : Obligations.TickLowersBothTimers := fun _ hrun hreq =>
  ⟨_, step_of_tick hrun hreq, tickDown_toNat_add_one, tickDown_of_zero, tickDown_toNat_add_one, tickDown_of_zero, rfl⟩

end Sys2Proof
end

section
/-! PROOFS. Every step and every instruction answers a next state (log entry 16): read off from the case lists of the moves of a step and
of the effects of an instruction. -/

namespace Sys2Proof

open Machine

/-- Settles O11: whatever the state, the step answers one of its moves and the instruction one of its effects, never a fault or refusal. -/
theorem everyStepAnswers : Obligations.EveryStepAnswers := by
  refine ⟨fun s => ?_, fun i s => ?_⟩
  · obtain ⟨t, hstep, -⟩ := step_moves s
    exact ⟨t, hstep⟩
  · obtain ⟨t, hexec, -⟩ := exec_effect i s
    exact ⟨t, hexec⟩

end Sys2Proof
end
